-- ==== Sys2Proof/Word.lean ====
section
/-! DEFINITION. The word types of the engine: a limb (R10, R14), a word address of the register window (R50) and a
byte address of a byte-addressed binding (R58). -/

namespace Sys2Proof

/-- A limb: a 64-bit unsigned word (R10). -/
abbrev Word := BitVec 64

/-- A word address of the register window, 12 bits wide (R50). -/
abbrev WordAddr := BitVec 12

/-- A byte address of a byte-addressed binding of the window, where word `a` is byte `8·a` (R58). -/
abbrev ByteAddr := BitVec 15

/-- `B` denotes 2^64 (R14). -/
abbrev B : Nat := 2 ^ 64

end Sys2Proof
end

