-- ==== Sys2Proof/Config.lean ====
section
/-! DEFINITION. What an instantiation of the engine fixes (the parameter list of 00_scope.md section 4). -/

namespace Sys2Proof

/-- The order of the 8 bytes of a word on a byte-addressed bus (R54). -/
inductive ByteOrder where
  | littleEndian
  | bigEndian
  deriving DecidableEq, Repr, Inhabited

/-- `LIMB_BITS` (R10). -/
abbrev Config.limbBits : Nat := 64

/-- `NATIVE_BITS`, which no output depends on (R12). -/
abbrev Config.nativeBits : Nat := 64

/-- The only access width, in bytes (R58). -/
abbrev Config.accessBytes : Nat := 8

/-- The smallest limb count (R11). -/
abbrev Config.minLimbs : Nat := 1

/-- The largest limb count (R11): the bound keeps UN inside its bank of 0x100 words (D2). -/
abbrev Config.maxLimbs : Nat := 255

/-- The limb count of `State.reset`. DESIGN CHOICE (log 2, unsafe for claims about `State.reset` alone): the spec leaves
`L` open, and 4 is one of the source's instantiations. Statements about every state hold for every `L`. -/
abbrev Config.resetLimbs : Nat := 4

/-- `HOST_BYTE_ORDER`: OPEN, and read by no rule (R54). It has no value in the model (log 10, safe). -/
opaque Config.hostByteOrder : ByteOrder

end Sys2Proof
end

