-- ==== Sys2Proof/Syntax.lean ====
section
/-! DEFINITION. The instructions: the six commands of the opcode map (R77). A command word has no register-number and
no immediate fields; every operand and result register is implied by OP (R75), so no constructor has an argument. -/

namespace Sys2Proof

/-- The engine command set, spec revision 1 (R2, R77). -/
inductive Instr where
  /-- OP 0x1: normalize the dividend and divisor held in U and V (R100). -/
  | norm
  /-- OP 0x2: the 2-by-1 reciprocal of Y0 (R110). -/
  | recip21
  /-- OP 0x3: divide `(X1:X0)` by the normalized limb Y0, with the reciprocal in VR (R115). -/
  | div21
  /-- OP 0x4: the 3-by-2 reciprocal of `(Y1:Y0)` (R130). -/
  | recip32
  /-- OP 0x5: divide `(X2:X1:X0)` by the normalized `(Y1:Y0)`, with the reciprocal in VR (R135). -/
  | div32
  /-- OP 0x6: the exact quotient and remainder of U by V (R150). -/
  | divide
  deriving DecidableEq, Repr

end Sys2Proof
end

