-- ==== Sys2Proof/Decode.lean ====
section
/-! DEFINITION. The command word (R75–R77, R81): its two fields, the decoder of the engine step (R80) and, after it, the
encoder. -/

namespace Sys2Proof

/-- Why a command word is illegal (R81). -/
inductive IllegalWord where
  /-- `RSV ≠ 0`, whatever the OP. -/
  | reservedNotZero
  /-- `OP ∈ {0x0, 0x7, ..., 0xF}`. -/
  | noSuchCommand (op : BitVec 4)
  deriving DecidableEq, Repr

/-- What the decoder reads from a word. -/
inductive Decoded where
  | command (i : Instr)
  | illegal (why : IllegalWord)
  deriving DecidableEq, Repr

/-- Field OP, bits [3:0] (R75). -/
def opField (w : Word) : BitVec 4 := w.extractLsb' 0 4

/-- Field RSV, bits [63:4] (R75). -/
def rsvField (w : Word) : BitVec 60 := w.extractLsb' 4 60

/-- The OP column of the opcode map (R77). -/
def commandOfOp (op : BitVec 4) : Option Instr :=
  match op.toNat with
  | 0x1 => some .norm
  | 0x2 => some .recip21
  | 0x3 => some .div21
  | 0x4 => some .recip32
  | 0x5 => some .div32
  | 0x6 => some .divide
  | _ => none

/-- The decoder, total on 64-bit words; an illegal word is named (R80, R81). -/
def decode (w : Word) : Decoded :=
  if rsvField w ≠ 0 then .illegal .reservedNotZero
  else
    match commandOfOp (opField w) with
    | some i => .command i
    | none => .illegal (.noSuchCommand (opField w))

/-- The OP of a command (R77). -/
def opcode : Instr → BitVec 4
  | .norm => 0x1
  | .recip21 => 0x2
  | .div21 => 0x3
  | .recip32 => 0x4
  | .div32 => 0x5
  | .divide => 0x6

/-- The command word of a command: OP in [3:0], RSV zero (R75, R85). -/
def encode (i : Instr) : Word := (opcode i).setWidth 64

/-- The instruction the decoder reads from the bits `w` of an opcode-table row. Every command is one 64-bit word, written
whole in one access (R54, R76), so the bits of the word are those of the table and no byte order enters. -/
def decodeTableWord (nbits w : Nat) : Option Instr :=
  if w < 2 ^ nbits ∧ w < B then
    match decode (BitVec.ofNat 64 w) with
    | .command i => some i
    | .illegal _ => none
  else none

end Sys2Proof
end

