-- ==== Sys2Proof/Machine/Limbs.lean ====
section
/-! DEFINITION. Wide integers as limb lists, least significant limb first (R14, R53), and the leading-zero count (R15). -/

namespace Sys2Proof.Machine

/-- `val(A) = Σ A[i]·B^i` (R14). -/
def val : List Word → Nat
  | [] => 0
  | w :: ws => w.toNat + B * val ws

/-- `limb_i(x) = ⌊x / B^i⌋ mod B` (R14, R150). -/
def limbOf (i x : Nat) : Word := BitVec.ofNat 64 (x / B ^ i)

/-- `limbs_k(x)`, the `k`-limb list of `x`, least significant limb first (R14). -/
def limbs (k x : Nat) : List Word := (List.range k).map fun i => limbOf i x

/-- `(a:b)` (R14). -/
def pair (a b : Word) : Nat := a.toNat * B + b.toNat

/-- `(a:b:c)` (R14). -/
def triple (a b c : Word) : Nat := a.toNat * B ^ 2 + b.toNat * B + c.toNat

/-- `clz64(x)` for `0 < x < B` (R15). -/
def clz64 (x : Nat) : Nat := 63 - Nat.log2 x

/-- A limb is normalized when its top bit is set, that is `x ≥ 2^63` (R16). -/
def normalized (x : Word) : Bool := x.msb

/-- The number of significant limbs: 0 for a zero value, else `1 + max { i : A[i] ≠ 0 }` (R101, R153). -/
def significantLimbs : List Word → Nat
  | [] => 0
  | w :: ws =>
    match significantLimbs ws with
    | 0 => if w = 0 then 0 else 1
    | k + 1 => k + 2

end Sys2Proof.Machine
end

