-- ==== Sys2Proof/Machine/Window.lean ====
section
/-! DEFINITION. The register window: the names of its registers (R21), their word addresses (R21, R51) and their
access rights (R21, R55). -/

namespace Sys2Proof.Machine

/-- The scalar operand registers (R26) and scalar result registers (R27). -/
inductive ScalarName where
  | x0 | x1 | x2 | y0 | y1 | vr
  | qs | rs0 | rs1 | rcp | shift
  deriving DecidableEq, Repr

/-- The limb arrays (R28–R33). -/
inductive ArrayName where
  | u | v | q | r | un | vn
  deriving DecidableEq, Repr

/-- `RegName` of R40: the registers of R21 except CMD, STATUS and CONFIG. -/
inductive RegName where
  | scalar (n : ScalarName)
  | limb (a : ArrayName) (i : Nat)
  deriving DecidableEq, Repr

/-- A register operand of a host line (R83): every name of R21. -/
inductive WindowReg where
  | cmd
  | status
  | config
  | data (n : RegName)
  deriving DecidableEq, Repr

/-- The number of limbs of an array in an instantiation with limb count `L`: UN has `L + 1`, the others `L` (R28–R33). -/
def ArrayName.size (L : Nat) : ArrayName → Nat
  | .un => L + 1
  | .u | .v | .q | .r | .vn => L

/-- The result registers QS, RS0, RS1, RCP and SHIFT (R27, R55). -/
def ScalarName.isResult : ScalarName → Bool
  | .qs | .rs0 | .rs1 | .rcp | .shift => true
  | .x0 | .x1 | .x2 | .y0 | .y1 | .vr => false

/-- The result arrays Q, R, UN and VN (R55). -/
def ArrayName.isResult : ArrayName → Bool
  | .q | .r | .un | .vn => true
  | .u | .v => false

/-- Whether a register is a result register; the others are operand registers (R55). -/
def RegName.isResult : RegName → Bool
  | .scalar n => n.isResult
  | .limb a _ => a.isResult

/-- The array indexes an instantiation has (R21, R40: "array names indexed by their legal ranges"). -/
def RegName.legal (L : Nat) : RegName → Bool
  | .scalar _ => true
  | .limb a i => decide (i < a.size L)

/-- A name of R21 in an instantiation with limb count `L`. -/
def WindowReg.legal (L : Nat) : WindowReg → Bool
  | .cmd | .status | .config => true
  | .data n => n.legal L

/-- The access column of R21: the RW registers are the operand registers. -/
def WindowReg.isReadWrite : WindowReg → Bool
  | .cmd | .status | .config => false
  | .data n => !n.isResult

/-- The word address of a scalar register (R21). -/
def ScalarName.addr : ScalarName → Nat
  | .x0 => 0x010
  | .x1 => 0x011
  | .x2 => 0x012
  | .y0 => 0x013
  | .y1 => 0x014
  | .vr => 0x015
  | .qs => 0x020
  | .rs0 => 0x021
  | .rs1 => 0x022
  | .rcp => 0x023
  | .shift => 0x024

/-- The word address of an array's limb 0 (R21, R51). -/
def ArrayName.base : ArrayName → Nat
  | .u => 0x100
  | .v => 0x200
  | .q => 0x300
  | .r => 0x400
  | .un => 0x500
  | .vn => 0x600

/-- `addr(reg)`, the word address of a register (R21, R84). -/
def addrOf : WindowReg → WordAddr
  | .cmd => 0x000
  | .status => 0x001
  | .config => 0x002
  | .data (.scalar n) => BitVec.ofNat 12 n.addr
  | .data (.limb a i) => BitVec.ofNat 12 (a.base + i)

/-- The scalar register at an address below 0x100 (R21). -/
def scalarAt : Nat → Option ScalarName
  | 0x010 => some .x0
  | 0x011 => some .x1
  | 0x012 => some .x2
  | 0x013 => some .y0
  | 0x014 => some .y1
  | 0x015 => some .vr
  | 0x020 => some .qs
  | 0x021 => some .rs0
  | 0x022 => some .rs1
  | 0x023 => some .rcp
  | 0x024 => some .shift
  | _ => none

/-- The array whose bank of 0x100 words has the given number (R51). -/
def arrayOfBank : Nat → Option ArrayName
  | 1 => some .u
  | 2 => some .v
  | 3 => some .q
  | 4 => some .r
  | 5 => some .un
  | 6 => some .vn
  | _ => none

/-- `regAt` of R51 with R51's `mapped`: the register at a word address of the window, `none` at an unmapped address. -/
def regAt (L : Nat) (a : WordAddr) : Option WindowReg :=
  match a.toNat with
  | 0x000 => some .cmd
  | 0x001 => some .status
  | 0x002 => some .config
  | n =>
    if n < 0x100 then (scalarAt n).map fun r => .data (.scalar r)
    else
      match arrayOfBank (n / 0x100) with
      | none => none
      | some b => if n % 0x100 < b.size L then some (.data (.limb b (n % 0x100))) else none

end Sys2Proof.Machine
end

