-- ==== Sys2Proof/Machine/HostSyntax.lean ====
section
/-! DEFINITION. Host programs: the lines of 30_encoding.md section 3 and the transactions they expand to. The text form
of a line stands in Machine/Text.lean; here a host variable's name is a number (log 12, DESIGN CHOICE, safe). -/

namespace Sys2Proof.Machine

/-- A host variable `$name` (R83), or the fresh `$tmp` of the COPY at a given line (R91). -/
inductive HostVar where
  | user (name : Nat)
  | tmp (line : Nat)
  deriving DecidableEq, Repr

/-- What a write moves: an immediate or a host variable (R84). -/
inductive Source where
  | imm (w : Word)
  | var (t : HostVar)
  deriving DecidableEq, Repr

/-- One line of a host program (R83, R84, R88–R93). -/
inductive Line where
  /-- `; text` (R83). -/
  | comment (text : List Char)
  /-- `WR <reg>, <imm>` and `WR <reg>, $t` (R84). -/
  | wr (reg : WindowReg) (src : Source)
  /-- `RD <reg>` and `RD <reg> -> $t` (R84). -/
  | rd (reg : WindowReg) (dst : Option HostVar)
  /-- `CMD <mnemonic>` (R88). -/
  | cmd (i : Instr)
  /-- `WRW <A>, <imm>` (R89). -/
  | wrw (a : ArrayName) (imm : Nat)
  /-- `RDW <A>` (R90). -/
  | rdw (a : ArrayName)
  /-- `COPY <dst>, <src>` (R91). -/
  | copy (dst src : WindowReg)
  /-- `WAIT` (R92). -/
  | wait
  /-- `RUN <mnemonic>` (R93). -/
  | run (i : Instr)
  deriving DecidableEq, Repr

/-- Where a transaction goes: a word address of the window, or a byte address of a byte-addressed binding, with the
access's size in bytes (R58). -/
inductive BusAddr where
  | word (a : WordAddr) (size : Nat)
  | byte (b : ByteAddr) (size : Nat)
  deriving DecidableEq, Repr

/-- How a read enters the observation trace: as a pair of its own (R84, R87), or as a limb of the one value an RDW
records (R90). -/
inductive TraceMode where
  | single
  | wideFirst (a : ArrayName)
  | wideNext (i : Nat)
  deriving DecidableEq, Repr

/-- One transaction of the host, or the repeating WAIT (R84, R86, R92). -/
inductive HostOp where
  | write (dst : BusAddr) (src : Source)
  | read (src : BusAddr) (mode : TraceMode) (dst : Option HostVar)
  | wait
  deriving DecidableEq, Repr

/-- One record of the observation trace: the `(reg, value)` of an RD line (R87), or the array and `val` of its limbs
of an RDW line (R90). -/
inductive TraceEntry where
  | reg (r : WindowReg) (w : Word)
  | wide (a : ArrayName) (value : Nat)
  deriving DecidableEq, Repr

end Sys2Proof.Machine
end

