-- ==== Sys2Proof/Machine/State.lean ====
section
/-! DEFINITION. The machine's state (R40, with the host's position, variables and trace of R84–R87), the reasons a step
can stop, and the state after reset (R41). -/

namespace Sys2Proof.Machine

/-- The model-fault reasons of R182. `raise Fault(r)` records one of them in State (R183); a later step of a faulted
machine, which nothing but reset enables, stops with it. Stopping is safe: the model refuses to predict the use. -/
inductive Fault where
  /-- A host access to an unmapped word address (R55, R56). Safe. -/
  | badAddress
  /-- A host access of a size other than 8 bytes, or misaligned in a byte-addressed binding (R58). Safe. -/
  | badWidth
  /-- A host write to STATUS, CONFIG or a result register (R56). Safe. -/
  | readOnlyWrite
  /-- A host write to CMD or an operand register while `BUSY = 1` (R206). Safe. -/
  | hazardBusyWrite
  /-- A host read of a result register while `BUSY = 1` (R207). Safe. -/
  | hazardBusyRead
  /-- A host read of an unwritten register (R34, R55, R182): the spec names this fault, and R201 forbids a model to return
  any value there. Safe. -/
  | unwrittenRead
  /-- An engine step whose command reads an unwritten operand register (R34, R78, R80, R182): the spec names this fault.
  Safe. -/
  | unwrittenOperand
  /-- An engine step whose command's precondition fails (R184). Safe. -/
  | precondition
  deriving DecidableEq, Repr

/-- Why a step has no meaning at all. None of these can come from a state the engine and a well-formed host program
reach. -/
inductive Refusal where
  /-- An instruction that has no meaning yet; raised by `exec`'s arm. Safe. No arm raises it. -/
  | notModelled (mnemonic : String)
  /-- A host write of a variable no line has assigned: not a host program of R83 (log 12). Raised by the host's turn. Safe. -/
  | unassignedVariable
  /-- `BUSY = 1` with an empty pending-command latch, which R35 rules out (log 18). Raised by the engine's turn. Safe. -/
  | busyWithoutCommand
  deriving DecidableEq, Repr

/-- What a register holds: a 64-bit value or the spec's own mark *unwritten* (R34, R40). -/
inductive RegVal where
  | unwritten
  | value (x : Word)
  deriving DecidableEq, Repr

/-- STATUS as R40 records it; its word is `Status.word` of Machine/Flags.lean (R23). -/
structure Status where
  busy  : Bool
  done  : Bool
  err   : Bool
  cause : BitVec 4
  deriving DecidableEq, Repr

/-- Whose turn it is (R20, R61): the interleaving is free, so it is data of State (log 1). -/
inductive Turn where
  | engine
  | host
  | reset
  deriving DecidableEq, Repr

/-- The host: its transactions, its position in them (R86), its variables (R83) and the observation trace (R87). -/
structure HostState where
  program : List HostOp
  pos     : Nat
  vars    : List (HostVar × Word)
  trace   : List TraceEntry
  deriving DecidableEq, Repr

/-- The state: the record of R40 with its registers named one by one (R21), the host's part (R84–R87), and the turns
still to be taken (the model's own field, log 1). CMD and CONFIG hold nothing: R22, R25. -/
structure State where
  /-- The limb count of the instantiation (R11, R40). -/
  L       : Nat
  /-- STATUS (R23). -/
  status  : Status
  /-- The pending-command latch (R35). -/
  pending : Option Word
  /-- Dividend limb u0 (R26). -/
  x0      : RegVal
  /-- Dividend limb u1 (R26). -/
  x1      : RegVal
  /-- Dividend limb u2 (R26). -/
  x2      : RegVal
  /-- Divisor limb d, or d0 (R26). -/
  y0      : RegVal
  /-- Divisor limb d1 (R26). -/
  y1      : RegVal
  /-- Reciprocal operand v (R26). -/
  vr      : RegVal
  /-- Quotient limb (R27). -/
  qs      : RegVal
  /-- Remainder limb 0 (R27). -/
  rs0     : RegVal
  /-- Remainder limb 1 (R27). -/
  rs1     : RegVal
  /-- Reciprocal result (R27). -/
  rcp     : RegVal
  /-- Normalization shift (R27). -/
  shift   : RegVal
  /-- Dividend of NORM and DIVIDE, `L` limbs (R28). -/
  u       : List RegVal
  /-- Divisor of NORM and DIVIDE, `L` limbs (R29). -/
  v       : List RegVal
  /-- Quotient of DIVIDE, `L` limbs (R30). -/
  q       : List RegVal
  /-- Remainder of DIVIDE, `L` limbs (R31). -/
  r       : List RegVal
  /-- Normalized dividend of NORM, `L + 1` limbs (R32). -/
  un      : List RegVal
  /-- Normalized divisor of NORM, `L` limbs (R33). -/
  vn      : List RegVal
  /-- The sticky model fault (R40, R183). -/
  fault   : Option Fault
  /-- The host (R84–R87). -/
  host    : HostState
  /-- The turns still to be taken (R61); the model's own (log 1). -/
  sched   : List Turn
  deriving DecidableEq, Repr

/-- The reset state of an instantiation with limb count `L` (R41, R200, R201): STATUS 0, nothing pending, every register
unwritten, no fault. No host program is loaded and no turn is fixed (logs 1 and 7). -/
def State.resetFor (L : Nat) : State where
  L       := L
  status  := ⟨false, false, false, 0⟩
  pending := none
  x0      := .unwritten
  x1      := .unwritten
  x2      := .unwritten
  y0      := .unwritten
  y1      := .unwritten
  vr      := .unwritten
  qs      := .unwritten
  rs0     := .unwritten
  rs1     := .unwritten
  rcp     := .unwritten
  shift   := .unwritten
  u       := List.replicate L .unwritten
  v       := List.replicate L .unwritten
  q       := List.replicate L .unwritten
  r       := List.replicate L .unwritten
  un      := List.replicate (L + 1) .unwritten
  vn      := List.replicate L .unwritten
  fault   := none
  host    := ⟨[], 0, [], []⟩
  sched   := []

/-- The machine right after reset, at the limb count `Config.resetLimbs` (log 2). -/
def State.reset : State := State.resetFor Config.resetLimbs

end Sys2Proof.Machine
end

