-- ==== Sys2Proof/Machine/Flags.lean ====
section
/-! DEFINITION. STATUS and CONFIG: the STATUS word (R23), the STATUS update of a start and of a completion (R24), the
CAUSE codes (R180), and the CONFIG word (R25). The engine has no flags beyond STATUS (R38). -/

namespace Sys2Proof.Machine

/-- CAUSE 0, NONE (R180). -/
def causeNone : BitVec 4 := 0

/-- CAUSE 1, DIV_BY_ZERO (R180). -/
def causeDivByZero : BitVec 4 := 1

/-- CAUSE 2, ILLEGAL_COMMAND (R180). -/
def causeIllegalCommand : BitVec 4 := 2

/-- The word a read of STATUS returns: CAUSE in [7:4], ERR in [2], DONE in [1], BUSY in [0], the reserved bits 0 (R23). -/
def Status.word (st : Status) : Word :=
  (0 : BitVec 56) ++ st.cause ++ (0 : BitVec 1) ++ BitVec.ofBool st.err ++ BitVec.ofBool st.done ++ BitVec.ofBool st.busy

/-- STATUS at command start: `BUSY = 1`, the rest 0 (R24). -/
def Status.started : Status := ⟨true, false, false, causeNone⟩

/-- STATUS at completion with a cause: `BUSY = 0`, `DONE = 1`, `ERR = (cause ≠ 0)` (R24). -/
def Status.completed (cause : BitVec 4) : Status := ⟨false, true, cause != 0, cause⟩

/-- The combinations the hardware holds (R23), with the causes that are ever produced (R180). -/
def Status.legal (st : Status) : Bool :=
  (!st.busy || (!st.done && !st.err && st.cause == 0)) && (st.err == (st.cause != 0)) && (!st.err || st.done) &&
    decide (st.cause.toNat ≤ 2)

/-- `CONFIG = (64 << 16) | L` (R25). -/
def configWord (L : Nat) : Word := (BitVec.ofNat 64 Config.limbBits <<< 16) ||| BitVec.ofNat 64 L

end Sys2Proof.Machine
end

