-- ==== Sys2Proof/Machine/Ops.lean ====
section
/-! DEFINITION. The shared operations: reading and writing a register, the host's access primitives (R55, R56, R58),
starting and completing a command (R24), raising a model fault (R183) and reset (R200). -/

namespace Sys2Proof.Machine

/-! ## Registers -/

/-- The home of a scalar register. -/
def State.scalar (s : State) : ScalarName → RegVal
  | .x0 => s.x0
  | .x1 => s.x1
  | .x2 => s.x2
  | .y0 => s.y0
  | .y1 => s.y1
  | .vr => s.vr
  | .qs => s.qs
  | .rs0 => s.rs0
  | .rs1 => s.rs1
  | .rcp => s.rcp
  | .shift => s.shift

/-- The home of a limb array. -/
def State.array (s : State) : ArrayName → List RegVal
  | .u => s.u
  | .v => s.v
  | .q => s.q
  | .r => s.r
  | .un => s.un
  | .vn => s.vn

/-- `x[NAME]` (R17). An index an array does not have names no register, and reads as unwritten. -/
def State.reg (s : State) : RegName → RegVal
  | .scalar n => s.scalar n
  | .limb a i => (s.array a).getD i .unwritten

/-- Put a value into a scalar register. -/
def State.setScalar (s : State) (n : ScalarName) (x : RegVal) : State :=
  match n with
  | .x0 => { s with x0 := x }
  | .x1 => { s with x1 := x }
  | .x2 => { s with x2 := x }
  | .y0 => { s with y0 := x }
  | .y1 => { s with y1 := x }
  | .vr => { s with vr := x }
  | .qs => { s with qs := x }
  | .rs0 => { s with rs0 := x }
  | .rs1 => { s with rs1 := x }
  | .rcp => { s with rcp := x }
  | .shift => { s with shift := x }

/-- Replace a limb array. -/
def State.setArray (s : State) (a : ArrayName) (xs : List RegVal) : State :=
  match a with
  | .u => { s with u := xs }
  | .v => { s with v := xs }
  | .q => { s with q := xs }
  | .r => { s with r := xs }
  | .un => { s with un := xs }
  | .vn => { s with vn := xs }

/-- `x[NAME] <- v` (R17). -/
def State.setReg (s : State) (n : RegName) (w : Word) : State :=
  match n with
  | .scalar m => s.setScalar m (.value w)
  | .limb a i => s.setArray a ((s.array a).set i (.value w))

/-- A written limb list as register contents. -/
def written (ws : List Word) : List RegVal := ws.map .value

/-! ## Start, completion, fault and reset -/

/-- Command start: `pending <- w`, `BUSY = 1` and the rest of STATUS 0 (R24). It also clears the error of an earlier
command (R190). -/
def State.start (s : State) (w : Word) : State :=
  { s with pending := some w, status := Status.started }

/-- `complete(cause)` (R24): the engine's only response to an error too (R189). There is no trap entry and no return. -/
def State.complete (s : State) (cause : BitVec 4) : State :=
  { s with pending := none, status := Status.completed cause }

/-- `raise Fault(r)`: the fault is recorded and nothing else changes (R183). -/
def State.raise (s : State) (f : Fault) : State := { s with fault := some f }

/-- The reset input's action (R200): every piece of the engine's state takes its reset value and `L` stays. The host's
part is not the engine's and stays (log 5, DEDUCED, unsafe). -/
def State.resetEngine (s : State) : State :=
  { State.resetFor s.L with host := s.host, sched := s.sched }

/-! ## The host's access primitives -/

/-- The binding's width check (R58, R186): an access names one whole word, or faults. -/
def BusAddr.resolve : BusAddr → Except Fault WordAddr
  | .word a size => if size = Config.accessBytes then .ok a else .error .badWidth
  | .byte b size =>
    if size = Config.accessBytes ∧ b.toNat % 8 = 0 then .ok (BitVec.ofNat 12 (b.toNat / 8)) else .error .badWidth

/-- `MemRead(a, 8)` (R55), its checks in R186's order; the last is R55's own "if x[n] = unwritten: raise
Fault(UNWRITTEN_READ)" (R34, R201). -/
def memRead (s : State) (a : WordAddr) : Except Fault Word :=
  match regAt s.L a with
  | none => .error .badAddress
  | some .cmd => .ok 0
  | some .status => .ok s.status.word
  | some .config => .ok (configWord s.L)
  | some (.data n) =>
    if s.status.busy && n.isResult then .error .hazardBusyRead
    else
      match s.reg n with
      | .unwritten => .error .unwrittenRead
      | .value x => .ok x

/-- `MemWrite(a, 8, v)` (R56), its checks in R186's order. -/
def memWrite (s : State) (a : WordAddr) (w : Word) : Except Fault State :=
  match regAt s.L a with
  | none => .error .badAddress
  | some .cmd => if s.status.busy then .error .hazardBusyWrite else .ok (s.start w)
  | some .status => .error .readOnlyWrite
  | some .config => .error .readOnlyWrite
  | some (.data n) =>
    if n.isResult then .error .readOnlyWrite
    else if s.status.busy then .error .hazardBusyWrite
    else .ok (s.setReg n w)

end Sys2Proof.Machine
end

