-- ==== Sys2Proof/Machine/Operands.lean ====
section
/-! DEFINITION. Operand assembly (R78): each command reads fixed registers, least significant limb first, and faults
UNWRITTEN_OPERAND when one of them is unwritten, before anything else happens (R80). -/

namespace Sys2Proof.Machine

/-- A register's value, `none` for the unwritten mark. -/
def RegVal.get? : RegVal → Option Word
  | .unwritten => none
  | .value x => some x

/-- The limbs of an array, `none` if one of them is unwritten. -/
def wideOperand : List RegVal → Option (List Word)
  | [] => some []
  | x :: xs =>
    match x.get?, wideOperand xs with
    | some w, some ws => some (w :: ws)
    | _, _ => none

/-- Dividend and divisor of NORM and DIVIDE (R78). -/
structure WideOperands where
  u : List Word
  v : List Word
  deriving DecidableEq, Repr

/-- Operands of DIV21 (R78). -/
structure Div21Operands where
  u1 : Word
  u0 : Word
  d  : Word
  v  : Word
  deriving DecidableEq, Repr

/-- Operand of RECIP32 (R78). -/
structure Recip32Operands where
  d1 : Word
  d0 : Word
  deriving DecidableEq, Repr

/-- Operands of DIV32 (R78). -/
structure Div32Operands where
  u2 : Word
  u1 : Word
  u0 : Word
  d1 : Word
  d0 : Word
  v  : Word
  deriving DecidableEq, Repr

/-- `u` from U, `v` from V (R78). -/
def wideOperands (s : State) : Option WideOperands := do
  let u ← wideOperand s.u
  let v ← wideOperand s.v
  return ⟨u, v⟩

/-- `u = (X1:X0)`, `d = Y0`, `v = VR` (R78). -/
def div21Operands (s : State) : Option Div21Operands := do
  let u1 ← s.x1.get?
  let u0 ← s.x0.get?
  let d ← s.y0.get?
  let v ← s.vr.get?
  return ⟨u1, u0, d, v⟩

/-- `d = (Y1:Y0)` (R78). -/
def recip32Operands (s : State) : Option Recip32Operands := do
  let d1 ← s.y1.get?
  let d0 ← s.y0.get?
  return ⟨d1, d0⟩

/-- `u = (X2:X1:X0)`, `d = (Y1:Y0)`, `v = VR` (R78). -/
def div32Operands (s : State) : Option Div32Operands := do
  let u2 ← s.x2.get?
  let u1 ← s.x1.get?
  let u0 ← s.x0.get?
  let d1 ← s.y1.get?
  let d0 ← s.y0.get?
  let v ← s.vr.get?
  return ⟨u2, u1, u0, d1, d0, v⟩

/-- Go on with the operands, or, as R80 says, "else raise Fault(UNWRITTEN_OPERAND)" (R34, R78, R203). -/
def withOperands {α : Type} (operands : Option α) (rule : α → Host.Outcome State Fault Refusal) :
    Host.Outcome State Fault Refusal :=
  match operands with
  | none => .fault .unwrittenOperand
  | some x => rule x

/-- Go on if the command's precondition holds, or fault PRECONDITION (R184). -/
def requirePrecondition (holds : Bool) (rule : Host.Outcome State Fault Refusal) : Host.Outcome State Fault Refusal :=
  if holds then rule else .fault .precondition

end Sys2Proof.Machine
end

