-- ==== Sys2Proof/Machine/LongDivision.lean ====
section
/-! DEFINITION. The long-division driver as a command: DIVIDE (R150, R171). Its reference datapath stands in
Machine/Driver.lean. -/

namespace Sys2Proof.Machine

/-- DIVIDE (R150). A zero divisor completes with DIV_BY_ZERO and writes no result (R171). -/
def execDivide (s : State) : Host.Outcome State Fault Refusal :=
  withOperands (wideOperands s) fun o =>
    if val o.v = 0 then .next (s.complete causeDivByZero)
    else
      .next (State.complete
        { s with
          q := written (limbs s.L (val o.u / val o.v))
          r := written (limbs s.L (val o.u % val o.v)) } causeNone)

end Sys2Proof.Machine
end

