-- ==== Sys2Proof/Machine/Normalizer.lean ====
section
/-! DEFINITION. The limb normalizer: the normalization function (R101) and the NORM command (R100, R104). -/

namespace Sys2Proof.Machine

/-- What `normalize` returns (R101). -/
structure Normalized where
  s  : Nat
  un : List Word
  vn : List Word
  n  : Nat
  deriving DecidableEq, Repr

/-- `normalize(U, V)` for `L`-limb arrays with `val(V) ≠ 0` (R101): the shift is the leading-zero count of the divisor's
most significant nonzero limb (D37). -/
def normalizeUV (L : Nat) (u v : List Word) : Normalized :=
  let n := significantLimbs v
  let s := clz64 (v.getD (n - 1) 0).toNat
  ⟨s, limbs (L + 1) (val u <<< s), limbs L (val v <<< s), n⟩

/-- NORM (R100); a zero divisor is a precondition violation (R104). -/
def execNorm (s : State) : Host.Outcome State Fault Refusal :=
  withOperands (wideOperands s) fun o =>
    requirePrecondition (val o.v != 0)
      (let z := normalizeUV s.L o.u o.v
       .next (State.complete
        { s with shift := .value (BitVec.ofNat 64 z.s), un := written z.un, vn := written z.vn } causeNone))

end Sys2Proof.Machine
end

