-- ==== Sys2Proof/Machine/Reciprocal21.lean ====
section
/-! DEFINITION. The 2-by-1 reciprocal unit and division step: the exact functions (R111, R116) and the commands RECIP21
(R110) and DIV21 (R115). -/

namespace Sys2Proof.Machine

/-- `recip21(d) = ⌊(B² − 1) / d⌋ − B` for a normalized `d` (R111). -/
def recip21 (d : Nat) : Nat := (B ^ 2 - 1) / d - B

/-- `udivrem_2by1`: `(⌊u / d⌋, u mod d)` (R116). -/
def udivrem21 (u d : Nat) : Nat × Nat := (u / d, u % d)

/-- The three preconditions of the 2-by-1 step (R117). -/
def div21Pre (o : Div21Operands) : Bool :=
  normalized o.d && decide (o.u1.toNat < o.d.toNat) && o.v.toNat == recip21 o.d.toNat

/-- RECIP21 (R110). -/
def execRecip21 (s : State) : Host.Outcome State Fault Refusal :=
  withOperands s.y0.get? fun d =>
    requirePrecondition (normalized d)
      (.next (State.complete { s with rcp := .value (BitVec.ofNat 64 (recip21 d.toNat)) } causeNone))

/-- DIV21 (R115). RS1 is not written (D32). -/
def execDiv21 (s : State) : Host.Outcome State Fault Refusal :=
  withOperands (div21Operands s) fun o =>
    requirePrecondition (div21Pre o)
      (let z := udivrem21 (pair o.u1 o.u0) o.d.toNat
       .next (State.complete
        { s with qs := .value (BitVec.ofNat 64 z.1), rs0 := .value (BitVec.ofNat 64 z.2) } causeNone))

end Sys2Proof.Machine
end

