-- ==== Sys2Proof/Machine/Reciprocal32.lean ====
section
/-! DEFINITION. The 3-by-2 reciprocal unit and division step: the exact functions (R131, R137) and the commands RECIP32
(R130) and DIV32 (R135). -/

namespace Sys2Proof.Machine

/-- `recip32(D) = ⌊(B³ − 1) / D⌋ − B` for a two-limb `D` with a normalized top limb (R131, log 9). -/
def recip32 (D : Nat) : Nat := (B ^ 3 - 1) / D - B

/-- `udivrem_3by2`: `(⌊u / D⌋, u mod D)` (R137). -/
def udivrem32 (u D : Nat) : Nat × Nat := (u / D, u % D)

/-- The three preconditions of the 3-by-2 step (R138). -/
def div32Pre (o : Div32Operands) : Bool :=
  normalized o.d1 && decide (pair o.u2 o.u1 < pair o.d1 o.d0) && o.v.toNat == recip32 (pair o.d1 o.d0)

/-- RECIP32 (R130). -/
def execRecip32 (s : State) : Host.Outcome State Fault Refusal :=
  withOperands (recip32Operands s) fun o =>
    requirePrecondition (normalized o.d1)
      (.next (State.complete { s with rcp := .value (BitVec.ofNat 64 (recip32 (pair o.d1 o.d0))) } causeNone))

/-- DIV32 (R135): the remainder is split into RS0, its low limb, and RS1. -/
def execDiv32 (s : State) : Host.Outcome State Fault Refusal :=
  withOperands (div32Operands s) fun o =>
    requirePrecondition (div32Pre o)
      (let z := udivrem32 (triple o.u2 o.u1 o.u0) (pair o.d1 o.d0)
       .next (State.complete
        { s with
          qs := .value (BitVec.ofNat 64 z.1)
          rs0 := .value (limbOf 0 z.2)
          rs1 := .value (limbOf 1 z.2) } causeNone))

end Sys2Proof.Machine
end

