-- ==== Sys2Proof/Machine/Dispatch.lean ====
section
/-! DEFINITION. The command rules, one arm per command (R77). -/

namespace Sys2Proof.Machine

def exec (i : Instr) (s : State) : Host.Outcome State Fault Refusal :=
  match i with
  | .norm => Sys2Proof.Machine.execNorm s
  | .recip21 => Sys2Proof.Machine.execRecip21 s
  | .div21 => Sys2Proof.Machine.execDiv21 s
  | .recip32 => Sys2Proof.Machine.execRecip32 s
  | .div32 => Sys2Proof.Machine.execDiv32 s
  | .divide => Sys2Proof.Machine.execDivide s

end Sys2Proof.Machine
end

