-- ==== Sys2Proof/Machine/Engine.lean ====
section
/-! DEFINITION. The engine agent: its one atomic step (R20, R80). -/

namespace Sys2Proof.Machine

/-- What an engine step makes of a command rule's answer: a fault of the rule is recorded, and the step has no other
effect (R183, R184). -/
def recordFault (s : State) : Host.Outcome State Fault Refusal → Host.Outcome State Fault Refusal
  | .next t => .next t
  | .fault f => .next (s.raise f)
  | .refused r => .refused r

/-- `engine_step` (R80): an illegal word completes with ILLEGAL_COMMAND and no operand is examined (R81, R186); a legal
one runs its command rule. -/
def engineStep (s : State) : Host.Outcome State Fault Refusal :=
  match s.pending with
  | none => .refused .busyWithoutCommand
  | some w =>
    match decode w with
    | .illegal _ => .next (s.complete causeIllegalCommand)
    | .command i => recordFault s (exec i s)

end Sys2Proof.Machine
end

