-- ==== Sys2Proof/Machine/HostAgent.lean ====
section
/-! DEFINITION. The host agent (R20): one transaction of its program at a time (R84, R86), WAIT (R92), its variables and
the observation trace (R87, R90). -/

namespace Sys2Proof.Machine

/-- The value of a host variable, `none` before a line assigns it. -/
def lookupVar (t : HostVar) : List (HostVar × Word) → Option Word
  | [] => none
  | (t', w) :: rest => if t' = t then some w else lookupVar t rest

/-- What a write moves: a `$t` is moved unchanged (R84). -/
def HostState.valueOf (h : HostState) : Source → Option Word
  | .imm w => some w
  | .var t => lookupVar t h.vars

/-- `$t <- v` (R84). -/
def assignVar (dst : Option HostVar) (w : Word) (vars : List (HostVar × Word)) : List (HostVar × Word) :=
  match dst with
  | none => vars
  | some t => (t, w) :: vars.filter fun p => p.1 != t

/-- Add limb `i` to the value the last record of the trace holds (R90). -/
def addLimb (i : Nat) (w : Word) : List TraceEntry → List TraceEntry
  | [] => []
  | [.wide a value] => [.wide a (value + w.toNat * B ^ i)]
  | e :: es => e :: addLimb i w es

/-- A read's entry in the observation trace (R87; for an RDW, R90: the record of the array is `val` of the limbs read). -/
def recordRead (mode : TraceMode) (r : WindowReg) (w : Word) (trace : List TraceEntry) : List TraceEntry :=
  match mode with
  | .single => trace ++ [.reg r w]
  | .wideFirst a => trace ++ [.wide a w.toNat]
  | .wideNext i => addLimb i w trace

/-- The host's position advances by one (R86). -/
def State.advance (s : State) : State := { s with host := { s.host with pos := s.host.pos + 1 } }

/-- `MemWrite` at a bus address: the binding's width check comes first (R186). -/
def busWrite (s : State) (dst : BusAddr) (w : Word) : Except Fault State :=
  match dst.resolve with
  | .error f => .error f
  | .ok a => memWrite s a w

/-- `MemRead` at a bus address, with the name of the register read. -/
def busRead (s : State) (src : BusAddr) : Except Fault (WindowReg × Word) :=
  match src.resolve with
  | .error f => .error f
  | .ok a =>
    match regAt s.L a, memRead s a with
    | some r, .ok w => .ok (r, w)
    | _, .error f => .error f
    | none, .ok _ => .error .badAddress

/-- A write transaction (R84). A faulting access is recorded and has no other effect, so the host's position stays
(R183, log 6). -/
def hostWrite (dst : BusAddr) (src : Source) (s : State) : Host.Outcome State Fault Refusal :=
  match s.host.valueOf src with
  | none => .refused .unassignedVariable
  | some w =>
    match busWrite s dst w with
    | .error f => .next (s.raise f)
    | .ok t => .next t.advance

/-- A read transaction (R84): no side effect on any register (R60), and the value enters the trace and the variable. -/
def hostRead (src : BusAddr) (mode : TraceMode) (dst : Option HostVar) (s : State) : Host.Outcome State Fault Refusal :=
  match busRead s src with
  | .error f => .next (s.raise f)
  | .ok (r, w) =>
    .next
      { s with
        host :=
          { s.host with
            pos := s.host.pos + 1
            vars := assignVar dst w s.host.vars
            trace := recordRead mode r w s.host.trace } }

/-- One iteration of WAIT (R92): a read of STATUS, repeated until it returns `BUSY = 0`. It leaves the trace alone (R87). -/
def hostWait (s : State) : Host.Outcome State Fault Refusal :=
  match memRead s 0x001 with
  | .error f => .next (s.raise f)
  | .ok w => .next (if w.getLsbD 0 then s else s.advance)

/-- One transaction of the host. -/
def hostOp (op : HostOp) (s : State) : Host.Outcome State Fault Refusal :=
  match op with
  | .write dst src => hostWrite dst src s
  | .read src mode dst => hostRead src mode dst s
  | .wait => hostWait s

/-- The host performs the transaction at its position; after its last one it does nothing (R86). -/
def hostStep (s : State) : Host.Outcome State Fault Refusal :=
  match s.host.program[s.host.pos]? with
  | none => .next s
  | some op => hostOp op s

/-- A host program loaded from outside the machine (log 7): position 0, no variable, empty trace (R86, R87). -/
def State.load (s : State) (program : List HostOp) : State := { s with host := ⟨program, 0, [], []⟩ }

end Sys2Proof.Machine
end

