-- ==== Sys2Proof/Machine/Turns.lean ====
section
/-! DEFINITION. The interleaving of the two agents and the reset input (R20, R61): the next turn is the head of `sched`.
A turn given to an agent that has nothing to do passes (log 8). When no turn is left, a busy engine moves, else the host:
the list is finite, so a started command completes after finitely many host accesses (R209, log 1). -/

namespace Sys2Proof.Machine

/-- The engine's turn: its step is enabled exactly when `BUSY = 1` (R20, R80). -/
def engineTurn (s : State) : Host.Outcome State Fault Refusal :=
  if s.status.busy then engineStep s else .next s

/-- The turn taken when no turn is left. -/
def freeTurn (s : State) : Host.Outcome State Fault Refusal :=
  if s.status.busy then engineStep s else hostStep s

/-- In a faulted state no host access and no engine step is enabled (R183): the machine is stuck with its fault. -/
def unlessFaulted (turn : State → Host.Outcome State Fault Refusal) (s : State) : Host.Outcome State Fault Refusal :=
  match s.fault with
  | none => turn s
  | some f => .fault f

/-- The state with the given turns left: the model's own part of a transition (log 1). -/
def State.withTurns (s : State) (rest : List Turn) : State := { s with sched := rest }

/-- One transition: reset, which is enabled at every point (R200), or a turn of an agent. -/
def transition (s : State) : Host.Outcome State Fault Refusal :=
  match s.sched with
  | [] => unlessFaulted freeTurn s
  | .engine :: rest => unlessFaulted engineTurn (s.withTurns rest)
  | .host :: rest => unlessFaulted hostStep (s.withTurns rest)
  | .reset :: rest => .next (s.withTurns rest).resetEngine

/-- A command word placed as if the host had just written it to CMD, with the engine to move next (R22, R24, log 7). -/
def State.placeCommand (s : State) (w : Word) : State := { (s.start w).withTurns [] with fault := none }

end Sys2Proof.Machine
end

