-- ==== Sys2Proof/Machine/Step.lean ====
section
/-! DEFINITION. The step of the machine, and how a command word comes to be run by the next step. -/

namespace Sys2Proof.Machine

/-- One step: one transition of the interleaving (R61). -/
def step (s : State) : Host.Outcome State Fault Refusal := transition s

/-- The machine with a command word where its next step finds it. The engine fetches nothing (R37): a command arrives by
a write to CMD, so the word goes where that write puts it, the pending-command latch, with STATUS at command start (log 7). -/
def State.withFetchWord (s : State) (_nbits w : Nat) : State := s.placeCommand (BitVec.ofNat 64 w)

end Sys2Proof.Machine
end

