-- ==== Sys2Proof/Machine/Datapath.lean ====
section
/-! DEFINITION. The reference datapaths of the units: the normalizer limb by limb (R103), the 2-by-1 step (R118), the
3-by-2 reciprocal (R136) and the 3-by-2 step (R139). They are informative: the commands are defined by the exact functions,
which govern (R18, log 16). No divide stands in them but the 2-by-1 reciprocal's value, whose method R114 leaves free. -/

namespace Sys2Proof.Machine

/-- The high limb of a 128-bit value. -/
def hiLimb (x : BitVec 128) : Word := x.extractLsb' 64 64

/-- The low limb of a 128-bit value. -/
def loLimb (x : BitVec 128) : Word := x.extractLsb' 0 64

/-- A 64×64→128 multiply (R118). -/
def mulWide (x y : Word) : BitVec 128 := x.setWidth 128 * y.setWidth 128

/-- Every limb shifted up by `s ∈ [1, 63]` with the top bits of the limb below it shifted in (R103). -/
def shiftLimbsUp (s : Nat) (below : Word) : List Word → List Word
  | [] => []
  | w :: ws => ((w <<< s) ||| (below >>> (64 - s))) :: shiftLimbsUp s w ws

/-- The normalizer limb by limb (R103): a shift of 0 copies, so no shift by 64 is executed. -/
def normalizeDatapath (u v : List Word) : Normalized :=
  let n := significantLimbs v
  let s := clz64 (v.getD (n - 1) 0).toNat
  if s = 0 then ⟨s, u ++ [0], v, n⟩
  else ⟨s, shiftLimbsUp s 0 u ++ [(u.getLastD 0) >>> (64 - s)], shiftLimbsUp s 0 v, n⟩

/-- The 2-by-1 step (R118): quotient and remainder. -/
def udivrem21Datapath (u1 u0 d v : Word) : Word × Word :=
  let q := mulWide v u1 + (u1 ++ u0 : BitVec 128)
  let q0 := loLimb q
  let q1 := hiLimb q + 1
  let r := u0 - q1 * d
  let (q1, r) := if r > q0 then (q1 - 1, r + d) else (q1, r)
  if r ≥ d then (q1 + 1, r - d) else (q1, r)

/-- The 3-by-2 reciprocal from the 2-by-1 reciprocal of `d1` (R136). -/
def recip32Datapath (d1 d0 : Word) : Word :=
  let v := BitVec.ofNat 64 (recip21 d1.toNat)
  let p := d1 * v + d0
  let (v, p) :=
    if p < d0 then
      let (v, p) := if p ≥ d1 then (v - 1 - 1, p - d1) else (v - 1, p)
      (v, p - d1)
    else (v, p)
  let t := mulWide v d0
  let p := p + hiLimb t
  if p < hiLimb t then
    if p > d1 ∨ (p = d1 ∧ loLimb t ≥ d0) then v - 1 - 1 else v - 1
  else v

/-- The 3-by-2 step (R139): quotient and two-limb remainder. -/
def udivrem32Datapath (u2 u1 u0 d1 d0 v : Word) : Word × BitVec 128 :=
  let D : BitVec 128 := d1 ++ d0
  let q := mulWide v u2 + (u2 ++ u1 : BitVec 128)
  let q0 := loLimb q
  let q1 := hiLimb q
  let r1 := u1 - q1 * d1
  let r := (r1 ++ u0 : BitVec 128) - mulWide d0 q1 - D
  let q1 := q1 + 1
  let (q1, r) := if hiLimb r ≥ q0 then (q1 - 1, r + D) else (q1, r)
  if r ≥ D then (q1 + 1, r - D) else (q1, r)

end Sys2Proof.Machine
end

