-- ==== Sys2Proof/Machine/Driver.lean ====
section
/-! DEFINITION. The reference long-division driver (R152–R165): dispatch, digit count, the three loops and the assembly of
the result. It is informative; DIVIDE is defined by R150 (R18, log 16). The division steps are the exact functions of R116
and R137, as the rules' text calls them, so a loop's reciprocal is no argument here. -/

namespace Sys2Proof.Machine

/-- The path the driver takes (R152). -/
inductive DriverPath where
  | zeroDivisor
  | native
  | shortDividend
  | unitDivisor
  /-- `k ≤ n`: no quotient digit (R159). -/
  | noDigits
  | oneLimb
  | twoLimbs
  | manyLimbs
  deriving DecidableEq, Repr

/-- The digit count `k` (R159). -/
def digitCount (m n : Nat) (un vn : List Word) : Nat :=
  if un.getD m 0 ≠ 0 ∨ (un.getD (m - 1) 0).toNat ≥ (vn.getD (n - 1) 0).toNat then m + 1 else m

/-- The first path of R152 that applies. -/
def driverPath (L : Nat) (u v : List Word) : DriverPath :=
  let m := significantLimbs u
  let n := significantLimbs v
  let z := normalizeUV L u v
  if val v = 0 then .zeroDivisor
  else if val u < 2 ^ Config.nativeBits ∧ val v < 2 ^ Config.nativeBits then .native
  else if m < n then .shortDividend
  else if val v = 1 then .unitDivisor
  else if digitCount m n z.un z.vn ≤ n then .noDigits
  else if n = 1 then .oneLimb
  else if n = 2 then .twoLimbs
  else .manyLimbs

/-- Short division (R160): digits `j − 1` down to 0, the running remainder, the digits found so far. -/
def oneLimbLoop (d : Nat) (w : List Word) : Nat → Nat → List Nat → List Nat × Nat
  | 0, rem, qd => (qd, rem)
  | j + 1, rem, qd =>
    let z := udivrem21 (rem * B + (w.getD j 0).toNat) d
    oneLimbLoop d w j z.2 (z.1 :: qd)

/-- The two-limb loop (R161). -/
def twoLimbLoop (D : Nat) (w : List Word) : Nat → Nat → List Nat → List Nat × Nat
  | 0, rem, qd => (qd, rem)
  | j + 1, rem, qd =>
    let z := udivrem32 (rem * B + (w.getD j 0).toNat) D
    twoLimbLoop D w j z.2 (z.1 :: qd)

/-- The estimate of a quotient digit (R162): `B − 1` when the window's top two limbs equal the divisor's (D26). -/
def estimateDigit (D2 : Nat) (u2 u1 u0 : Word) : Nat :=
  if pair u2 u1 = D2 then B - 1 else (udivrem32 (triple u2 u1 u0) D2).1

/-- The add-back loop with its assertion bound (R162, R163): at most `bound` add-backs of the divisor `Dv`. -/
def addBack (Dv : Nat) : Nat → Nat → Int → Nat × Int
  | 0, qhat, t => (qhat, t)
  | bound + 1, qhat, t => if t < 0 then addBack Dv bound (qhat - 1) (t + Dv) else (qhat, t)

/-- The source's assertion bound on add-backs (R163, D25). -/
def addBackBound : Nat := 2

/-- The window `W[j..j+n]` (R162). -/
def window (w : List Word) (j n : Nat) : List Word := (w.drop j).take (n + 1)

/-- `W[j..j+n] := limbs_{n+1}(t)` (R162). -/
def setWindow (w : List Word) (j n t : Nat) : List Word := w.take j ++ limbs (n + 1) t ++ w.drop (j + n + 1)

/-- One digit of Algorithm D (R162): the digit and the new working dividend. -/
def manyLimbDigit (D2 Dv n j : Nat) (w : List Word) : Nat × List Word :=
  let qhat := estimateDigit D2 (w.getD (j + n) 0) (w.getD (j + n - 1) 0) (w.getD (j + n - 2) 0)
  let z := addBack Dv addBackBound qhat ((val (window w j n) : Int) - qhat * Dv)
  (z.1, setWindow w j n z.2.toNat)

/-- Algorithm D (R162): digits `j − 1` down to 0. -/
def manyLimbLoop (D2 Dv n : Nat) : Nat → List Word → List Nat → List Nat × List Word
  | 0, w, qd => (qd, w)
  | j + 1, w, qd =>
    let z := manyLimbDigit D2 Dv n j w
    manyLimbLoop D2 Dv n j z.2 (z.1 :: qd)

/-- `Σ Qd[j]·B^j` (R165). -/
def digitsVal : List Nat → Nat
  | [] => 0
  | q :: qs => q + B * digitsVal qs

/-- The assembly of the result (R165): the shift is undone on the remainder only (R106). -/
def assembleResult (L s : Nat) (qd : List Nat) (rn : Nat) : List Word × List Word :=
  (limbs L (digitsVal qd), limbs L (rn >>> s))

/-- The reference driver (R152–R165): `none` for a zero divisor, else quotient and remainder. -/
def driver (L : Nat) (u v : List Word) : Option (List Word × List Word) :=
  let m := significantLimbs u
  let z := normalizeUV L u v
  let n := z.n
  let k := digitCount m n z.un z.vn
  let w := z.un.take k
  match driverPath L u v with
  | .zeroDivisor => none
  | .native => some (limbs L (val u / val v), limbs L (val u % val v))
  | .shortDividend => some (limbs L 0, u)
  | .unitDivisor => some (u, limbs L 0)
  | .noDigits => some (limbs L 0, u)
  | .oneLimb =>
    let d := (z.vn.getD 0 0).toNat
    let x := oneLimbLoop d w (k - 1) (w.getD (k - 1) 0).toNat []
    some (assembleResult L z.s x.1 x.2)
  | .twoLimbs =>
    let D := pair (z.vn.getD 1 0) (z.vn.getD 0 0)
    let x := twoLimbLoop D w (k - 2) (pair (w.getD (k - 1) 0) (w.getD (k - 2) 0)) []
    some (assembleResult L z.s x.1 x.2)
  | .manyLimbs =>
    let D2 := pair (z.vn.getD (n - 1) 0) (z.vn.getD (n - 2) 0)
    let x := manyLimbLoop D2 (val (z.vn.take n)) n (k - n) w []
    some (assembleResult L z.s x.1 (val (x.2.take n)))

end Sys2Proof.Machine
end

