-- ==== Sys2Proof/Machine/Text.lean ====
section
/-! DEFINITION. The textual bus encoding of a transaction and the text of a host line (R83, R84, R88–R93). -/

namespace Sys2Proof.Machine

/-- A hex digit, capital as in 95_test_vectors.md. -/
def hexDigit (d : Nat) : Char :=
  if d < 10 then Char.ofNat (48 + d) else Char.ofNat (55 + d)

/-- `n` hex digits, most significant first. -/
def hexText : Nat → Nat → List Char
  | 0, _ => []
  | n + 1, x => hexDigit (x / 16 ^ n % 16) :: hexText n x

/-- `W <addr:3 hex digits> <imm:16 hex digits>` (R84). -/
def busWriteText (a : WordAddr) (w : Word) : List Char := 'W' :: ' ' :: (hexText 3 a.toNat ++ ' ' :: hexText 16 w.toNat)

/-- `R <addr>` (R84). -/
def busReadText (a : WordAddr) : List Char := 'R' :: ' ' :: hexText 3 a.toNat

/-- A register operand's name (R83). -/
def ScalarName.text : ScalarName → List Char
  | .x0 => ['X', '0']
  | .x1 => ['X', '1']
  | .x2 => ['X', '2']
  | .y0 => ['Y', '0']
  | .y1 => ['Y', '1']
  | .vr => ['V', 'R']
  | .qs => ['Q', 'S']
  | .rs0 => ['R', 'S', '0']
  | .rs1 => ['R', 'S', '1']
  | .rcp => ['R', 'C', 'P']
  | .shift => ['S', 'H', 'I', 'F', 'T']

/-- An array's name (R83). -/
def ArrayName.text : ArrayName → List Char
  | .u => ['U']
  | .v => ['V']
  | .q => ['Q']
  | .r => ['R']
  | .un => ['U', 'N']
  | .vn => ['V', 'N']

/-- A register operand, an array element with a decimal index (R83). -/
def WindowReg.text : WindowReg → List Char
  | .cmd => ['C', 'M', 'D']
  | .status => ['S', 'T', 'A', 'T', 'U', 'S']
  | .config => ['C', 'O', 'N', 'F', 'I', 'G']
  | .data (.scalar n) => n.text
  | .data (.limb a i) => a.text ++ '[' :: (Nat.toDigits 10 i ++ [']'])

/-- A command mnemonic (R77, R85). -/
def mnemonicText : Instr → List Char
  | .norm => ['N', 'O', 'R', 'M']
  | .recip21 => ['R', 'E', 'C', 'I', 'P', '2', '1']
  | .div21 => ['D', 'I', 'V', '2', '1']
  | .recip32 => ['R', 'E', 'C', 'I', 'P', '3', '2']
  | .div32 => ['D', 'I', 'V', '3', '2']
  | .divide => ['D', 'I', 'V', 'I', 'D', 'E']

/-- `$name` (R83); the model's names are numbers (log 12). -/
def HostVar.text : HostVar → List Char
  | .user n => '$' :: 't' :: Nat.toDigits 10 n
  | .tmp n => '$' :: 't' :: 'm' :: 'p' :: Nat.toDigits 10 n

/-- `<imm>` as a 64-bit hex literal, or `$t` (R83, R84). -/
def Source.text : Source → List Char
  | .imm w => '0' :: 'x' :: hexText 16 w.toNat
  | .var t => t.text

/-- The text of a line (R83, R84, R88–R93). -/
def Line.text : Line → List Char
  | .comment t => ';' :: t
  | .wr reg src => ['W', 'R', ' '] ++ reg.text ++ [',', ' '] ++ src.text
  | .rd reg none => ['R', 'D', ' '] ++ reg.text
  | .rd reg (some t) => ['R', 'D', ' '] ++ reg.text ++ [' ', '-', '>', ' '] ++ t.text
  | .cmd i => ['C', 'M', 'D', ' '] ++ mnemonicText i
  | .wrw a imm => ['W', 'R', 'W', ' '] ++ a.text ++ [',', ' ', '0', 'x'] ++ Nat.toDigits 16 imm
  | .rdw a => ['R', 'D', 'W', ' '] ++ a.text
  | .copy dst src => ['C', 'O', 'P', 'Y', ' '] ++ dst.text ++ [',', ' '] ++ src.text
  | .wait => ['W', 'A', 'I', 'T']
  | .run i => ['R', 'U', 'N', ' '] ++ mnemonicText i

end Sys2Proof.Machine
end

