-- ==== Sys2Proof/Machine/Assembler.lean ====
section
/-! DEFINITION. The expansion of host lines into transactions (R84, R88–R93), and what the assembler refuses (R83, R89,
R91). -/

namespace Sys2Proof.Machine

/-- A whole-word access at the word interface (R58). -/
def busAddrOf (r : WindowReg) : BusAddr := .word (addrOf r) Config.accessBytes

/-- The transactions of the line with the given number (R84, R88–R93). COPY's `$tmp` is fresh because it carries that
number (R91). -/
def expandLine (L line : Nat) : Line → List HostOp
  | .comment _ => []
  | .wr reg src => [.write (busAddrOf reg) src]
  | .rd reg dst => [.read (busAddrOf reg) .single dst]
  | .cmd i => [.write (busAddrOf .cmd) (.imm (encode i))]
  | .wrw a imm => (List.range L).map fun i => .write (busAddrOf (.data (.limb a i))) (.imm (limbOf i imm))
  | .rdw a =>
    (List.range (a.size L)).map fun i =>
      .read (busAddrOf (.data (.limb a i))) (if i = 0 then .wideFirst a else .wideNext i) none
  | .copy dst src =>
    [.read (busAddrOf src) .single (some (.tmp line)), .write (busAddrOf dst) (.var (.tmp line))]
  | .wait => [.wait]
  | .run i => [.write (busAddrOf .cmd) (.imm (encode i)), .wait]

/-- The transactions of a program whose first line has the given number, in line order (R84). -/
def expandFrom (L line : Nat) : List Line → List HostOp
  | [] => []
  | l :: ls => expandLine L line l ++ expandFrom L (line + 1) ls

/-- A variable a program may name: COPY's `$tmp` is the assembler's own (R91). -/
def HostVar.isUser : HostVar → Bool
  | .user _ => true
  | .tmp _ => false

/-- A write's source as a program may write it. -/
def Source.isUser : Source → Bool
  | .imm _ => true
  | .var t => t.isUser

/-- What the assembler accepts of one line: names of R21 (R83, log 13), `A ∈ {U, V}` and `imm < B^L` for WRW (R89), an RW
destination for COPY (R91). -/
def lineOk (L : Nat) : Line → Bool
  | .comment _ => true
  | .wr reg src => reg.legal L && src.isUser
  | .rd reg dst => reg.legal L && dst.all HostVar.isUser
  | .cmd _ => true
  | .wrw a imm => (a == .u || a == .v) && decide (imm < B ^ L)
  | .rdw _ => true
  | .copy dst src => dst.legal L && src.legal L && dst.isReadWrite
  | .wait => true
  | .run _ => true

/-- Every variable written from is one an earlier line read into (R83: "one 64-bit word that the program read earlier"). -/
def varsAssigned (assigned : List HostVar) : List Line → Bool
  | [] => true
  | .wr _ (.var t) :: ls => assigned.contains t && varsAssigned assigned ls
  | .rd _ (some t) :: ls => varsAssigned (t :: assigned) ls
  | _ :: ls => varsAssigned assigned ls

/-- The assembler: the program's transactions, or `none` where it refuses. -/
def assemble (L : Nat) (p : List Line) : Option (List HostOp) :=
  if p.all (lineOk L) && varsAssigned [] p then some (expandFrom L 0 p) else none

end Sys2Proof.Machine
end

