-- ==== Sys2Proof/WellFormed.lean ====
section
/-! DEFINITION. Which terms are well formed: an instruction, an instantiation's limb count, a line of a host program and
a host program. -/

namespace Sys2Proof

/-- An instruction has no fields (R75), so every constructor of `Instr` is a well-formed instruction. -/
def Instr.wellFormed : Instr → Bool
  | .norm | .recip21 | .div21 | .recip32 | .div32 | .divide => true

/-- `1 ≤ L ≤ 255` (R11). -/
def limbCountWellFormed (L : Nat) : Bool :=
  decide (Config.minLimbs ≤ L) && decide (L ≤ Config.maxLimbs)

/-- A host program the assembler accepts (R83, R89–R91): every line is accepted, and a host variable is used only after
a line that reads into it. -/
def hostProgramWellFormed (L : Nat) (p : List Machine.Line) : Bool :=
  p.all (Machine.lineOk L) && Machine.varsAssigned [] p

end Sys2Proof
end

