-- ==== Sys2Proof/Safety.lean ====
section
/-! DEFINITION. The terms claims are stated in: which states the machine can be in, where a run ends, and the operand,
result and precondition tables of the commands. -/

namespace Sys2Proof.Machine

/-- The end of a run (R210): the last line executed, `BUSY = 0` and no fault. A faulted state is never final (R183). -/
def State.final (s : State) : Bool :=
  decide (s.host.program.length ≤ s.host.pos) && !s.status.busy && s.fault.isNone

/-- What holds of every state of the machine. -/
structure State.Inv (s : State) : Prop where
  /-- R11. -/
  limbCount : Config.minLimbs ≤ s.L ∧ s.L ≤ Config.maxLimbs
  /-- R28–R33. -/
  size : ∀ a : ArrayName, (s.array a).length = a.size s.L
  /-- R23, R180. -/
  status : s.status.legal = true
  /-- R35: the latch is full exactly when `BUSY = 1`. -/
  pending : s.pending.isSome = s.status.busy
  /-- R27: `x[SHIFT] ∈ [0, 63]`. -/
  shift : ∀ x : Word, s.shift = .value x → x.toNat ≤ 63

/-- Every variable the remaining transactions write is one assigned by then (R83). -/
def opsReady (assigned : List HostVar) : List HostOp → Bool
  | [] => true
  | .write _ (.var t) :: ops => assigned.contains t && opsReady assigned ops
  | .read _ _ (some t) :: ops => opsReady (t :: assigned) ops
  | _ :: ops => opsReady assigned ops

/-- The host's remaining transactions never write an unassigned variable. -/
def State.HostInv (s : State) : Prop :=
  opsReady (s.host.vars.map Prod.fst) (s.host.program.drop s.host.pos) = true

/-- The elements of an array, `n` limbs. -/
def limbRegs (a : ArrayName) (n : Nat) : List RegName := (List.range n).map (.limb a)

/-- The registers a command reads (R78). -/
def operandRegs (L : Nat) : Instr → List RegName
  | .norm => limbRegs .u L ++ limbRegs .v L
  | .recip21 => [.scalar .y0]
  | .div21 => [.scalar .x1, .scalar .x0, .scalar .y0, .scalar .vr]
  | .recip32 => [.scalar .y1, .scalar .y0]
  | .div32 => [.scalar .x2, .scalar .x1, .scalar .x0, .scalar .y1, .scalar .y0, .scalar .vr]
  | .divide => limbRegs .u L ++ limbRegs .v L

/-- The registers a command writes when it completes with `CAUSE = 0` (R79). -/
def resultRegs (L : Nat) : Instr → List RegName
  | .norm => .scalar .shift :: (limbRegs .un (L + 1) ++ limbRegs .vn L)
  | .recip21 => [.scalar .rcp]
  | .div21 => [.scalar .qs, .scalar .rs0]
  | .recip32 => [.scalar .rcp]
  | .div32 => [.scalar .qs, .scalar .rs0, .scalar .rs1]
  | .divide => limbRegs .q L ++ limbRegs .r L

/-- Every operand register of the command is written (R80). -/
def State.operandsWritten (s : State) (i : Instr) : Prop :=
  ∀ n ∈ operandRegs s.L i, s.reg n ≠ .unwritten

/-- The number a scalar register holds, 0 if it is unwritten: for use where it is written. -/
def State.num (s : State) (n : ScalarName) : Nat := ((s.scalar n).get?.getD 0).toNat

/-- The number an array holds, its unwritten limbs counted as 0: for use where they are written. -/
def State.wide (s : State) (a : ArrayName) : Nat := val ((s.array a).map fun x => x.get?.getD 0)

/-- The precondition table of R184: when a command with written operands raises `Fault(PRECONDITION)`. -/
def State.violates (s : State) : Instr → Prop
  | .norm => s.wide .v = 0
  | .recip21 => s.num .y0 < 2 ^ 63
  | .div21 =>
    s.num .y0 < 2 ^ 63 ∨ s.num .y0 ≤ s.num .x1 ∨ s.num .vr ≠ (B ^ 2 - 1) / s.num .y0 - B
  | .recip32 => s.num .y1 < 2 ^ 63
  | .div32 =>
    s.num .y1 < 2 ^ 63 ∨ s.num .y1 * B + s.num .y0 ≤ s.num .x2 * B + s.num .x1 ∨
      s.num .vr ≠ (B ^ 3 - 1) / (s.num .y1 * B + s.num .y0) - B
  | .divide => False

/-- STATUS after a completion with `CAUSE = NONE` (R24). -/
def doneStatus : Status := ⟨false, true, false, 0⟩

/-- STATUS after an error completion (R24). -/
def errorStatus (cause : BitVec 4) : Status := ⟨false, true, true, cause⟩

/-- `t` differs from `s` at most in the host's part and the turns left: no register, status or fault changed. -/
def State.sameEngine (s t : State) : Prop := { t with host := s.host, sched := s.sched } = s

/-- `k` steps of the machine, stopping at a fault or a refusal. -/
def runSteps (k : Nat) (s : State) : Host.Outcome State Fault Refusal := Host.Core.run Sys2Proof.core k s

/-- The next `n` steps are the host's: the turns listed for them are its own, and where the list is spent the engine is not
busy, so the host moves (log 1). -/
def State.hostMovesNext (s : State) (n : Nat) : Prop :=
  (∀ x ∈ s.sched.take n, x = .host) ∧ (s.status.busy = false ∨ n ≤ s.sched.length)

/-- The transaction the host performs next (R86). -/
def State.nextOp (s : State) : Option HostOp := s.host.program[s.host.pos]?

/-- The word addresses R51 lists as mapped for an instantiation with limb count `L`. -/
def mapped (L a : Nat) : Prop :=
  a = 0x000 ∨ a = 0x001 ∨ a = 0x002 ∨ (0x010 ≤ a ∧ a ≤ 0x015) ∨ (0x020 ≤ a ∧ a ≤ 0x024) ∨
    (∃ k ∈ [1, 2, 3, 4, 6], 0x100 * k ≤ a ∧ a < 0x100 * k + L) ∨ (0x500 ≤ a ∧ a ≤ 0x500 + L)

end Sys2Proof.Machine
end

