-- ==== Sys2Proof/Certificates/Slice0/Obligations.lean ====
section
/-! DEFINITION. The statements about the machine, each from the rules of spec/ its docstring names. -/

open Sys2Proof Sys2Proof.Machine

/-! ## Reset and the invariant -/

/-- R41: what reset leaves, for every limb count: STATUS 0, nothing pending, CONFIG constant, CMD reads 0, every other
register unwritten, no fault. -/
def Obligations.ResetLeavesTheStatedValues : Prop :=
  ∀ L : Nat, (State.resetFor L).L = L ∧
    (State.resetFor L).status = ⟨false, false, false, 0⟩ ∧ (State.resetFor L).status.word = 0 ∧
    (State.resetFor L).pending = none ∧
    memRead (State.resetFor L) 0x002 = .ok ((64 <<< 16) ||| BitVec.ofNat 64 L) ∧
    memRead (State.resetFor L) 0x000 = .ok 0 ∧
    (∀ n : RegName, (State.resetFor L).reg n = .unwritten) ∧
    (State.resetFor L).fault = none

/-- The reset state meets the invariants, for every limb count of R11 and at `State.reset` (whose limb count is the
model's choice, log 2). -/
def Obligations.ResetMeetsTheInvariants : Prop :=
  (∀ L : Nat, 1 ≤ L → L ≤ 255 → (State.resetFor L).Inv ∧ (State.resetFor L).HostInv) ∧
    State.reset.Inv ∧ State.reset.HostInv

/-- Every step from every state that meets the invariant (limb count in range, array sizes, legal STATUS combinations, a
latch full exactly when busy, SHIFT at most 63) leads to one that meets it, with the same limb count. -/
def Obligations.StepKeepsTheInvariant : Prop :=
  ∀ s t : State, s.Inv → step s = .next t → t.Inv ∧ t.L = s.L

/-- R200: the reset input acts at every point, busy or faulted or neither, and sets every piece of the engine's state to
its reset value; CONFIG stays. -/
def Obligations.ResetActsAtEveryPoint : Prop :=
  ∀ (s : State) (rest : List Turn), s.sched = .reset :: rest →
    ∃ t, step s = .next t ∧ t.pending = none ∧ t.status.word = 0 ∧ t.status = ⟨false, false, false, 0⟩ ∧
      (∀ n : RegName, t.reg n = .unwritten) ∧ t.fault = none ∧ t.L = s.L ∧
      memRead t 0x002 = memRead s 0x002

/-- Reset is an input of the engine: the host's program, position, variables and trace stay. The model's reading of R200
(log 5, DEDUCED). -/
def Obligations.ResetKeepsTheHost : Prop :=
  ∀ (s : State) (rest : List Turn), s.sched = .reset :: rest →
    ∃ t, step s = .next t ∧ t.host = s.host ∧ t.sched = rest

/-! ## STATUS and CONFIG -/

/-- The bits of the STATUS word (the field table of R23). -/
def Obligations.StatusWordFields : Prop :=
  ∀ st : Status, st.word.getLsbD 0 = st.busy ∧ st.word.getLsbD 1 = st.done ∧ st.word.getLsbD 2 = st.err ∧
    st.word.getLsbD 3 = false ∧ st.word.extractLsb' 4 4 = st.cause ∧ st.word.extractLsb' 8 56 = 0

/-- The five STATUS words of 95_test_vectors.md section 6 are the only ones a machine that meets the invariant shows. -/
def Obligations.StatusWordIsOneOfFive : Prop :=
  ∀ s : State, s.Inv → s.status.word ∈ ([0x0, 0x1, 0x2, 0x16, 0x26] : List Word)

/-- R24: STATUS at command start, by a CMD write while `BUSY = 0`, and at completion; a CMD write while `BUSY = 1` is a
hazard. -/
def Obligations.StatusProtocol : Prop :=
  (∀ (s : State) (w : Word), s.status.busy = false →
    memWrite s 0x000 w = .ok { s with pending := some w, status := ⟨true, false, false, 0⟩ }) ∧
  (∀ (s : State) (w : Word), s.status.busy = true → memWrite s 0x000 w = .error .hazardBusyWrite) ∧
  (⟨true, false, false, 0⟩ : Status).word = 1 ∧
  (∀ (s : State) (c : BitVec 4), s.complete c =
    { s with pending := none, status := ⟨false, true, decide (c ≠ 0), c⟩ } ∧
    (s.complete c).status.word =
      (c.setWidth 64 <<< 4) ||| ((if c = 0 then (0 : Word) else 1) <<< 2) ||| ((1 : Word) <<< 1))

/-- R25: CONFIG holds `L` in [15:0], 64 in [23:16] and 0 above, is read-only, and is constant. -/
def Obligations.ConfigIsConstant : Prop :=
  (∀ s : State, s.Inv → ∃ c : Word, memRead s 0x002 = .ok c ∧ (c.extractLsb' 0 16).toNat = s.L ∧
    c.extractLsb' 16 8 = 64 ∧ c.extractLsb' 24 40 = 0 ∧ c.toNat = 64 * 2 ^ 16 + s.L) ∧
  (∀ (s : State) (w : Word), memWrite s 0x002 w = .error .readOnlyWrite) ∧
  (∀ s t : State, step s = .next t → memRead t 0x002 = memRead s 0x002)

/-- An error indication, ERR with its CAUSE, stays as it is until the next accepted CMD write or a reset (R190): reading
STATUS does not clear it, and no other step changes any bit of STATUS. -/
def Obligations.ErrorStaysUntilTheNextStart : Prop :=
  ∀ s t : State, s.Inv → step s = .next t → s.status.err = true → t.status ≠ s.status →
    s.sched.head? = some .reset ∨
      ∃ dst src w, s.nextOp = some (.write dst src) ∧ dst.resolve = .ok 0x000 ∧ s.host.valueOf src = some w ∧
        t.pending = some w ∧ t.status = ⟨true, false, false, 0⟩

/-! ## The register window -/

/-- R51: exactly the listed addresses are mapped, `0x100·k + i` is limb `i` of its array, no address names two registers
and no register has two addresses, and an access to an unmapped address faults. -/
def Obligations.WindowMap : Prop :=
  ∀ L : Nat, 1 ≤ L → L ≤ 255 →
    (∀ a : WordAddr, (regAt L a).isSome = true ↔ mapped L a.toNat) ∧
    (∀ i < L, regAt L (BitVec.ofNat 12 (0x100 + i)) = some (.data (.limb .u i)) ∧
      regAt L (BitVec.ofNat 12 (0x200 + i)) = some (.data (.limb .v i)) ∧
      regAt L (BitVec.ofNat 12 (0x300 + i)) = some (.data (.limb .q i)) ∧
      regAt L (BitVec.ofNat 12 (0x400 + i)) = some (.data (.limb .r i)) ∧
      regAt L (BitVec.ofNat 12 (0x600 + i)) = some (.data (.limb .vn i))) ∧
    (∀ i ≤ L, regAt L (BitVec.ofNat 12 (0x500 + i)) = some (.data (.limb .un i))) ∧
    (∀ (a a' : WordAddr) (r : WindowReg), regAt L a = some r → regAt L a' = some r → a = a') ∧
    (∀ (s : State) (a : WordAddr) (w : Word), s.L = L → ¬ mapped L a.toNat →
      memRead s a = .error .badAddress ∧ memWrite s a w = .error .badAddress)

/-- The word addresses of the control and scalar registers, written out (the table of R21), and for every register of the
window, the arrays' limbs among them: its address and the register at that address agree, both ways. -/
def Obligations.AddressesRoundTrip : Prop :=
  ∀ L : Nat, 1 ≤ L → L ≤ 255 →
    regAt L 0x000 = some .cmd ∧ regAt L 0x001 = some .status ∧ regAt L 0x002 = some .config ∧
    regAt L 0x010 = some (.data (.scalar .x0)) ∧ regAt L 0x011 = some (.data (.scalar .x1)) ∧
    regAt L 0x012 = some (.data (.scalar .x2)) ∧ regAt L 0x013 = some (.data (.scalar .y0)) ∧
    regAt L 0x014 = some (.data (.scalar .y1)) ∧ regAt L 0x015 = some (.data (.scalar .vr)) ∧
    regAt L 0x020 = some (.data (.scalar .qs)) ∧ regAt L 0x021 = some (.data (.scalar .rs0)) ∧
    regAt L 0x022 = some (.data (.scalar .rs1)) ∧ regAt L 0x023 = some (.data (.scalar .rcp)) ∧
    regAt L 0x024 = some (.data (.scalar .shift)) ∧
    (∀ r : WindowReg, r.legal L = true → regAt L (addrOf r) = some r) ∧
    (∀ (a : WordAddr) (r : WindowReg), regAt L a = some r → addrOf r = a ∧ r.legal L = true)

/-- R55: a host read, its checks in order; it has no side effect on any register. -/
def Obligations.HostReadRule : Prop :=
  (∀ (s : State) (a : WordAddr), (regAt s.L a = none → memRead s a = .error .badAddress) ∧
    (a = 0x000 → memRead s a = .ok 0) ∧
    (a = 0x001 → memRead s a = .ok s.status.word) ∧
    (a = 0x002 → memRead s a = .ok ((64 <<< 16) ||| BitVec.ofNat 64 s.L)) ∧
    (∀ n : RegName, regAt s.L a = some (.data n) →
      (s.status.busy = true → n.isResult = true → memRead s a = .error .hazardBusyRead) ∧
      (¬ (s.status.busy = true ∧ n.isResult = true) →
        (s.reg n = .unwritten → memRead s a = .error .unwrittenRead) ∧
        (∀ x : Word, s.reg n = .value x → memRead s a = .ok x)))) ∧
  (∀ n : RegName, n.isResult = true ↔
    n ∈ ([.qs, .rs0, .rs1, .rcp, .shift] : List ScalarName).map RegName.scalar ∨
      ∃ i, n = .limb .q i ∨ n = .limb .r i ∨ n = .limb .un i ∨ n = .limb .vn i) ∧
  (∀ (s t : State) (src : BusAddr) (mode : TraceMode) (dst : Option HostVar), hostRead src mode dst s = .next t →
    s.sameEngine { t with fault := s.fault })

/-- R56: a host write, its checks in order; a write to an operand register replaces its whole value and nothing else. -/
def Obligations.HostWriteRule : Prop :=
  ∀ (s : State) (a : WordAddr) (w : Word), s.Inv →
    (regAt s.L a = none → memWrite s a w = .error .badAddress) ∧
    (a = 0x000 → s.status.busy = true → memWrite s a w = .error .hazardBusyWrite) ∧
    (a = 0x000 → s.status.busy = false →
      memWrite s a w = .ok { s with pending := some w, status := ⟨true, false, false, 0⟩ }) ∧
    (a = 0x001 ∨ a = 0x002 → memWrite s a w = .error .readOnlyWrite) ∧
    (∀ n : RegName, regAt s.L a = some (.data n) → n.isResult = true → memWrite s a w = .error .readOnlyWrite) ∧
    (∀ n : RegName, regAt s.L a = some (.data n) → n.isResult = false → s.status.busy = true →
      memWrite s a w = .error .hazardBusyWrite) ∧
    (∀ n : RegName, regAt s.L a = some (.data n) → n.isResult = false → s.status.busy = false →
      ∃ t, memWrite s a w = .ok t ∧ t.reg n = .value w ∧ (∀ m : RegName, m ≠ n → t.reg m = s.reg m) ∧
        t.L = s.L ∧ t.status = s.status ∧ t.pending = s.pending ∧ t.fault = s.fault ∧ t.host = s.host ∧
        t.sched = s.sched)

/-- After an operand write the window reads as before at every other address, and the written word at its own (R60, R61);
writing the same value twice is the same as writing it once (R60). -/
def Obligations.OperandWriteReadsBack : Prop :=
  ∀ (s t : State) (a : WordAddr) (w : Word) (n : RegName), s.Inv → regAt s.L a = some (.data n) →
    memWrite s a w = .ok t →
    memRead t a = .ok w ∧ (∀ a' : WordAddr, a' ≠ a → memRead t a' = memRead s a') ∧ memWrite t a w = .ok t

/-- Only whole words, at word addresses or at byte addresses `8·a`; every other access faults BAD_WIDTH (R57, R58). That
an access at a word address names its size too, and that a byte address has 15 bits relative to the window's base, is the
model's reading (log 11, DEDUCED). -/
def Obligations.OnlyWholeWordAccesses : Prop :=
  (∀ (a : WordAddr) (size : Nat), size ≠ 8 → (BusAddr.word a size).resolve = .error .badWidth) ∧
  (∀ a : WordAddr, (BusAddr.word a 8).resolve = .ok a ∧
    (BusAddr.byte (BitVec.ofNat 15 (8 * a.toNat)) 8).resolve = .ok a) ∧
  (∀ (b : ByteAddr) (size : Nat), b.toNat % 8 ≠ 0 ∨ size ≠ 8 → (BusAddr.byte b size).resolve = .error .badWidth) ∧
  (∀ (s : State) (d : BusAddr) (w : Word), d.resolve = .error .badWidth →
    busWrite s d w = .error .badWidth ∧ busRead s d = .error .badWidth)

/-- R206: the busy write hazard, for CMD and for every operand register. -/
def Obligations.BusyWriteHazard : Prop :=
  ∀ (s : State) (w : Word), s.Inv → s.status.busy = true →
    memWrite s 0x000 w = .error .hazardBusyWrite ∧
    ∀ n : RegName, n.legal s.L = true → n.isResult = false →
      memWrite s (addrOf (.data n)) w = .error .hazardBusyWrite

/-- R207: the busy read hazard, for every result register; STATUS, CONFIG, CMD and the operand registers may be read. -/
def Obligations.BusyReadHazard : Prop :=
  ∀ s : State, s.Inv → s.status.busy = true →
    (∀ n : RegName, n.legal s.L = true → n.isResult = true →
      memRead s (addrOf (.data n)) = .error .hazardBusyRead) ∧
    (∀ n : RegName, n.legal s.L = true → n.isResult = false →
      ∀ x : Word, s.reg n = .value x → memRead s (addrOf (.data n)) = .ok x) ∧
    (∀ a ∈ ([0x000, 0x001, 0x002] : List WordAddr), ∃ x : Word, memRead s a = .ok x)

/-! ## Encoding and the step -/

/-- R77: the opcode map, each command word written out, and the OP values that select no command. -/
def Obligations.OpcodeMap : Prop :=
  encode .norm = 0x0000000000000001 ∧ decode 0x0000000000000001 = .command .norm ∧
  encode .recip21 = 0x0000000000000002 ∧ decode 0x0000000000000002 = .command .recip21 ∧
  encode .div21 = 0x0000000000000003 ∧ decode 0x0000000000000003 = .command .div21 ∧
  encode .recip32 = 0x0000000000000004 ∧ decode 0x0000000000000004 = .command .recip32 ∧
  encode .div32 = 0x0000000000000005 ∧ decode 0x0000000000000005 = .command .div32 ∧
  encode .divide = 0x0000000000000006 ∧ decode 0x0000000000000006 = .command .divide ∧
  ∀ op : BitVec 4, op = 0 ∨ 7 ≤ op.toNat → commandOfOp op = none

/-- Every word but the six command words is illegal: decode and encode agree on all 64-bit words, and the illegal ones
are told apart by RSV and OP as R81 lists them. -/
def Obligations.DecodeAcceptsExactlyTheCommandWords : Prop :=
  (∀ (w : Word) (i : Instr), decode w = .command i ↔ w = encode i) ∧
  (∀ w : Word, decode w = .illegal .reservedNotZero ↔ w.extractLsb' 4 60 ≠ 0) ∧
  (∀ (w : Word) (op : BitVec 4), decode w = .illegal (.noSuchCommand op) ↔
    w.extractLsb' 4 60 = 0 ∧ op = w.extractLsb' 0 4 ∧ (op = 0 ∨ 7 ≤ op.toNat))

/-- R81: an illegal word is accepted by the CMD write, and the engine step completes it with CAUSE 2, writing no result
register and examining no operand. -/
def Obligations.IllegalWordCompletesWithCause2 : Prop :=
  ∀ (s : State) (w : Word),
    w.extractLsb' 4 60 ≠ 0 ∨ w.extractLsb' 0 4 = 0 ∨ 7 ≤ (w.extractLsb' 0 4).toNat →
    (s.status.busy = false → memWrite s 0x000 w = .ok (s.start w)) ∧
    (s.pending = some w → engineStep s = .next { s with pending := none, status := ⟨false, true, true, 2⟩ })

/-- A step runs the decoded instruction (R80): busy, not faulted, with the engine to move, a step is the command rule of
the pending word; a fault of the rule is recorded and is the step's only effect (R183). Around the rule the step only
takes the turn off the list (log 1). -/
def Obligations.StepRunsTheDecodedCommand : Prop :=
  ∀ (s : State) (w : Word) (i : Instr), s.fault = none → s.status.busy = true → s.pending = some w →
    decode w = .command i → (s.sched = [] ∨ ∃ rest, s.sched = .engine :: rest) →
    (∀ t, exec i { s with sched := s.sched.tail } = .next t → step s = .next t) ∧
    (∀ f, exec i { s with sched := s.sched.tail } = .fault f →
      step s = .next { s with sched := s.sched.tail, fault := some f })

/-- The engine step is enabled only while `BUSY = 1` (R20, R80). That an engine's turn given otherwise passes, taken off the
list with nothing else changed, is the model's choice (log 8 with log 1, DESIGN CHOICE). -/
def Obligations.EngineMovesOnlyWhenBusy : Prop :=
  ∀ (s : State) (rest : List Turn), s.fault = none → s.status.busy = false → s.sched = .engine :: rest →
    step s = .next { s with sched := rest }

/-- Raising a fault records it and changes nothing else; in a faulted state no host access and no engine step is enabled,
the state is never final, and reset is the only way out (R183). The model's readings in it: a step of a faulted state
answers its fault (log 4, DEDUCED), a faulting access leaves the host's position and trace (log 6, DEDUCED), and a step
takes its turn off the list (log 1, DESIGN CHOICE). -/
def Obligations.FaultedStateIsStuck : Prop :=
  (∀ (s : State) (f : Fault), s.raise f = { s with fault := some f }) ∧
  (∀ (s : State) (f : Fault), s.fault = some f →
    s.final = false ∧
    (s.sched.head? ≠ some .reset → step s = .fault f) ∧
    (∀ t : State, step s = .next t → s.sched.head? = some .reset ∧ t.fault = none)) ∧
  (∀ (s t : State) (f : Fault), s.fault = none → step s = .next t → t.fault = some f →
    t = { s with sched := s.sched.tail, fault := some f })

/-! ## The commands -/

/-- R100 with R101: NORM. -/
def Obligations.NormRule : Prop :=
  encode .norm = 0x0000000000000001 ∧
  (∀ s : State, s.Inv → ((∃ i < s.L, s.reg (.limb .u i) = .unwritten ∨ s.reg (.limb .v i) = .unwritten) →
    exec .norm s = .fault .unwrittenOperand)) ∧
  (∀ (s : State) (us vs : List Word), s.u = us.map .value → s.v = vs.map .value →
    us.length = s.L → vs.length = s.L →
    (val vs = 0 → exec .norm s = .fault .precondition) ∧
    (val vs ≠ 0 → ∃ (n sh : Nat) (uns vns : List Word),
      1 ≤ n ∧ n ≤ s.L ∧ vs.getD (n - 1) 0 ≠ 0 ∧ (∀ i, n ≤ i → vs.getD i 0 = 0) ∧
      sh = 63 - Nat.log2 (vs.getD (n - 1) 0).toNat ∧
      uns.length = s.L + 1 ∧ val uns = val us * 2 ^ sh ∧ vns.length = s.L ∧ val vns = val vs * 2 ^ sh ∧
      exec .norm s = .next
        { s with
          shift := .value (BitVec.ofNat 64 sh)
          un := uns.map .value
          vn := vns.map .value
          pending := none
          status := doneStatus }))

/-- R110 with R111 and R112: RECIP21. -/
def Obligations.Recip21Rule : Prop :=
  encode .recip21 = 0x0000000000000002 ∧
  (∀ s : State, s.y0 = .unwritten → exec .recip21 s = .fault .unwrittenOperand) ∧
  (∀ (s : State) (d : Word), s.y0 = .value d →
    (d.toNat < 2 ^ 63 → exec .recip21 s = .fault .precondition) ∧
    (2 ^ 63 ≤ d.toNat → ∃ x : Word, x.toNat = (B ^ 2 - 1) / d.toNat - B ∧
      exec .recip21 s = .next { s with rcp := .value x, pending := none, status := doneStatus }))

/-- R115 with R116 and R117: DIV21. RS1 keeps its value. -/
def Obligations.Div21Rule : Prop :=
  encode .div21 = 0x0000000000000003 ∧
  (∀ s : State, s.x1 = .unwritten ∨ s.x0 = .unwritten ∨ s.y0 = .unwritten ∨ s.vr = .unwritten →
    exec .div21 s = .fault .unwrittenOperand) ∧
  (∀ (s : State) (u1 u0 d v : Word), s.x1 = .value u1 → s.x0 = .value u0 → s.y0 = .value d → s.vr = .value v →
    (d.toNat < 2 ^ 63 ∨ d.toNat ≤ u1.toNat ∨ v.toNat ≠ (B ^ 2 - 1) / d.toNat - B →
      exec .div21 s = .fault .precondition) ∧
    (2 ^ 63 ≤ d.toNat → u1.toNat < d.toNat → v.toNat = (B ^ 2 - 1) / d.toNat - B → ∃ q r : Word,
      q.toNat = (u1.toNat * B + u0.toNat) / d.toNat ∧ r.toNat = (u1.toNat * B + u0.toNat) % d.toNat ∧
      exec .div21 s = .next
        { s with qs := .value q, rs0 := .value r, pending := none, status := doneStatus }))

/-- R130 with R132: RECIP32; the value is the one R130's pseudocode gives (R131), which the model accepts (log 9, DESIGN
CHOICE). -/
def Obligations.Recip32Rule : Prop :=
  encode .recip32 = 0x0000000000000004 ∧
  (∀ s : State, s.y1 = .unwritten ∨ s.y0 = .unwritten → exec .recip32 s = .fault .unwrittenOperand) ∧
  (∀ (s : State) (d1 d0 : Word), s.y1 = .value d1 → s.y0 = .value d0 →
    (d1.toNat < 2 ^ 63 → exec .recip32 s = .fault .precondition) ∧
    (2 ^ 63 ≤ d1.toNat → ∃ x : Word, x.toNat = (B ^ 3 - 1) / (d1.toNat * B + d0.toNat) - B ∧
      exec .recip32 s = .next { s with rcp := .value x, pending := none, status := doneStatus }))

/-- R135 with R137 and R138: DIV32. The reciprocal that VR must hold is the value of R131, which the model accepts (log 9,
DESIGN CHOICE). -/
def Obligations.Div32Rule : Prop :=
  encode .div32 = 0x0000000000000005 ∧
  (∀ s : State, s.x2 = .unwritten ∨ s.x1 = .unwritten ∨ s.x0 = .unwritten ∨ s.y1 = .unwritten ∨
    s.y0 = .unwritten ∨ s.vr = .unwritten → exec .div32 s = .fault .unwrittenOperand) ∧
  (∀ (s : State) (u2 u1 u0 d1 d0 v : Word) (D u : Nat), s.x2 = .value u2 → s.x1 = .value u1 → s.x0 = .value u0 →
    s.y1 = .value d1 → s.y0 = .value d0 → s.vr = .value v →
    D = d1.toNat * B + d0.toNat → u = u2.toNat * B ^ 2 + u1.toNat * B + u0.toNat →
    (d1.toNat < 2 ^ 63 ∨ D ≤ u2.toNat * B + u1.toNat ∨ v.toNat ≠ (B ^ 3 - 1) / D - B →
      exec .div32 s = .fault .precondition) ∧
    (2 ^ 63 ≤ d1.toNat → u2.toNat * B + u1.toNat < D → v.toNat = (B ^ 3 - 1) / D - B → ∃ q r0 r1 : Word,
      q.toNat = u / D ∧ r0.toNat = u % D % B ∧ r1.toNat = u % D / B ∧
      exec .div32 s = .next
        { s with
          qs := .value q
          rs0 := .value r0
          rs1 := .value r1
          pending := none
          status := doneStatus }))

/-- R150 with R171: DIVIDE. -/
def Obligations.DivideRule : Prop :=
  encode .divide = 0x0000000000000006 ∧
  (∀ s : State, s.Inv → ((∃ i < s.L, s.reg (.limb .u i) = .unwritten ∨ s.reg (.limb .v i) = .unwritten) →
    exec .divide s = .fault .unwrittenOperand)) ∧
  (∀ (s : State) (us vs : List Word), s.u = us.map .value → s.v = vs.map .value →
    us.length = s.L → vs.length = s.L →
    (val vs = 0 → exec .divide s = .next { s with pending := none, status := errorStatus 1 }) ∧
    (val vs ≠ 0 → ∃ qs rs : List Word,
      qs.length = s.L ∧ val qs = val us / val vs ∧ rs.length = s.L ∧ val rs = val us % val vs ∧
      exec .divide s = .next
        { s with q := qs.map .value, r := rs.map .value, pending := none, status := doneStatus }))

/-- An engine step whose command reads an unwritten register faults, whatever the other operands hold (the operand table
of R78, R80, R203). -/
def Obligations.UnwrittenOperandFaults : Prop :=
  ∀ (s : State) (i : Instr) (n : RegName), s.Inv → n ∈ operandRegs s.L i → s.reg n = .unwritten →
    exec i s = .fault .unwrittenOperand

/-- R184: the precondition table gives the exact condition, and the engine step then writes nothing except `fault`;
STATUS keeps `BUSY = 1`. In DIV32's row `recip32` is the value of R131, which the model accepts (log 9, DESIGN CHOICE). -/
def Obligations.PreconditionTable : Prop :=
  ∀ (s : State) (i : Instr), s.Inv → s.operandsWritten i →
    (exec i s = .fault .precondition ↔ s.violates i) ∧
    (s.violates i → s.pending = some (encode i) →
      engineStep s = .next { s with fault := some .precondition } ∧ s.status.busy = true)

/-- Every command with written operands that meet the precondition table completes (R185). For DIV32 that table's
reciprocal is the value of R131, which the model accepts (log 9, DESIGN CHOICE). -/
def Obligations.LegalCommandsComplete : Prop :=
  ∀ (s : State) (i : Instr), s.Inv → s.operandsWritten i → ¬ s.violates i →
    ∃ t, exec i s = .next t ∧ t.status.busy = false ∧ t.status.done = true ∧ t.pending = none ∧
      (i ≠ .divide → t.status = doneStatus)

/-- R39: a command writes exactly the result registers its rule names; every other register keeps its value, and a
command that completes with `CAUSE ≠ 0` writes no result register. -/
def Obligations.CommandWritesExactlyItsResults : Prop :=
  ∀ (s t : State) (i : Instr), s.Inv → exec i s = .next t →
    (∀ n : RegName, n ∉ resultRegs s.L i → t.reg n = s.reg n) ∧
    (t.status.cause = 0 → ∀ n ∈ resultRegs s.L i, t.reg n ≠ .unwritten) ∧
    (t.status.cause ≠ 0 → ∀ n : RegName, t.reg n = s.reg n) ∧
    t.pending = none ∧ t.L = s.L ∧ t.fault = s.fault ∧ t.host = s.host ∧ t.sched = s.sched

/-- R181: only DIVIDE completes with `CAUSE ≠ 0` when its word is legal, and then with DIV_BY_ZERO; the others complete
with `CAUSE = 0` or fault. -/
def Obligations.OnlyDivideReportsAnError : Prop :=
  (∀ (s : State) (i : Instr), i ≠ .divide →
    (∃ t, exec i s = .next t ∧ t.status = doneStatus) ∨
      exec i s = .fault .unwrittenOperand ∨ exec i s = .fault .precondition) ∧
  (∀ s : State, (∃ t, exec .divide s = .next t ∧ (t.status = doneStatus ∨ t.status = errorStatus 1)) ∨
    exec .divide s = .fault .unwrittenOperand)

/-- A command's outcome depends on nothing but its operand registers and `L`: two machines that agree on those complete
with the same STATUS and the same results, or fault alike (R78, R36). -/
def Obligations.CommandDependsOnlyOnItsOperands : Prop :=
  ∀ (s s' : State) (i : Instr), s.Inv → s'.Inv → s.L = s'.L →
    (∀ n ∈ operandRegs s.L i, s.reg n = s'.reg n) →
    (∀ f, exec i s = .fault f → exec i s' = .fault f) ∧
    (∀ t, exec i s = .next t → ∃ t', exec i s' = .next t' ∧ t'.status = t.status ∧
      (t.status.cause = 0 → ∀ n ∈ resultRegs s.L i, t'.reg n = t.reg n))

/-! ## Who changes what -/

/-- An operand register changes only by reset or by a host write to it while `BUSY = 0`; no command changes one (R26,
R206, R207). -/
def Obligations.OnlyHostWritesChangeOperands : Prop :=
  ∀ (s t : State) (n : RegName), s.Inv → step s = .next t → n.isResult = false → t.reg n ≠ s.reg n →
    s.sched.head? = some .reset ∨
      (s.status.busy = false ∧ ∃ dst src w, s.nextOp = some (.write dst src) ∧
        dst.resolve = .ok (addrOf (.data n)) ∧ s.host.valueOf src = some w ∧ t.reg n = .value w)

/-- A result register changes only by reset or by the completion of a pending legal command that names it as a result
(R21, R39, R56). -/
def Obligations.OnlyCommandsChangeResults : Prop :=
  ∀ (s t : State) (n : RegName), s.Inv → step s = .next t → n.isResult = true → t.reg n ≠ s.reg n →
    s.sched.head? = some .reset ∨
      (s.status.busy = true ∧ ∃ i, s.pending = some (encode i) ∧ n ∈ resultRegs s.L i ∧ t.status = doneStatus)

/-! ## Arithmetic properties -/

/-- Round trip, no overflow and the degenerate cases of DIVIDE, on the registers it leaves (R168, R169, R172). -/
def Obligations.DivideProperties : Prop :=
  ∀ (s t : State) (us vs : List Word), s.u = us.map .value → s.v = vs.map .value →
    us.length = s.L → vs.length = s.L → val vs ≠ 0 → exec .divide s = .next t →
    val us = t.wide .q * val vs + t.wide .r ∧ t.wide .r < val vs ∧ t.wide .q ≤ val us ∧
    t.wide .u = val us ∧ t.wide .v = val vs ∧
    (val vs = 1 → t.q = s.u ∧ t.wide .r = 0) ∧
    (val us = val vs → t.wide .q = 1 ∧ t.wide .r = 0) ∧
    (val us < val vs → t.wide .q = 0 ∧ t.r = s.u)

/-- The properties of the normalization function (R102). -/
def Obligations.NormalizeProperties : Prop :=
  ∀ (L : Nat) (us vs : List Word), us.length = L → vs.length = L → val vs ≠ 0 →
    (normalizeUV L us vs).s ≤ 63 ∧
    ((normalizeUV L us vs).vn.getD ((normalizeUV L us vs).n - 1) 0).getLsbD 63 = true ∧
    (∀ i, (normalizeUV L us vs).n ≤ i → i < L → (normalizeUV L us vs).vn.getD i 0 = 0) ∧
    val (normalizeUV L us vs).vn = val vs * 2 ^ (normalizeUV L us vs).s ∧
    val vs * 2 ^ (normalizeUV L us vs).s < B ^ (normalizeUV L us vs).n ∧
    val (normalizeUV L us vs).un = val us * 2 ^ (normalizeUV L us vs).s ∧
    ((normalizeUV L us vs).un.getD L 0).toNat < 2 ^ (normalizeUV L us vs).s

/-- The properties of the 2-by-1 reciprocal (R113). -/
def Obligations.Recip21Properties : Prop :=
  (∀ d : Nat, 2 ^ 63 ≤ d → d < B →
    d * (recip21 d + B) ≤ B ^ 2 - 1 ∧ B ^ 2 - 1 < d * (recip21 d + B + 1) ∧
    1 ≤ recip21 d ∧ recip21 d ≤ B - 1 ∧
    B ^ 2 < (d + 1) * (recip21 d + B)) ∧
  (∀ d d' : Nat, 2 ^ 63 ≤ d → d ≤ d' → d' < B → recip21 d' ≤ recip21 d) ∧
  recip21 (2 ^ 63) = 0xFFFFFFFFFFFFFFFF ∧ recip21 (B - 1) = 1

/-- The properties of the 3-by-2 reciprocal (R133), for the value of R131, which the model accepts (log 9, DESIGN
CHOICE). -/
def Obligations.Recip32Properties : Prop :=
  (∀ d1 d0 : Nat, 2 ^ 63 ≤ d1 → d1 < B → d0 < B →
    (d1 * B + d0) * (recip32 (d1 * B + d0) + B) ≤ B ^ 3 - 1 ∧
    B ^ 3 - 1 < (d1 * B + d0) * (recip32 (d1 * B + d0) + B + 1) ∧
    recip32 (d1 * B + d0) ≤ B - 1 ∧
    recip32 (d1 * B) = recip21 d1 ∧
    recip32 (d1 * B + d0) ≤ recip21 d1 ∧ recip21 d1 ≤ recip32 (d1 * B + d0) + 4) ∧
  recip32 (2 ^ 63 * B) = 0xFFFFFFFFFFFFFFFF ∧ recip32 ((B - 1) * B + (B - 1)) = 0

/-! ## The reference datapaths -/

/-- The limb-by-limb normalizer gives the arrays of the normalization function (R103). The normalizer stands beside the
command, which is the function (log 16, DESIGN CHOICE). -/
def Obligations.NormalizeDatapathIsExact : Prop :=
  ∀ (L : Nat) (us vs : List Word), us.length = L → vs.length = L → val vs ≠ 0 →
    normalizeDatapath us vs = normalizeUV L us vs

/-- The 2-by-1 datapath returns the exact quotient and remainder whenever the preconditions of the step hold. R118 marks
that claim general knowledge, and the datapath stands beside the command, which is the exact function (log 16, DESIGN
CHOICE). -/
def Obligations.Div21DatapathIsExact : Prop :=
  ∀ u1 u0 d v : Word, 2 ^ 63 ≤ d.toNat → u1.toNat < d.toNat → v.toNat = recip21 d.toNat →
    (udivrem21Datapath u1 u0 d v).1.toNat = (u1.toNat * B + u0.toNat) / d.toNat ∧
    (udivrem21Datapath u1 u0 d v).2.toNat = (u1.toNat * B + u0.toNat) % d.toNat

/-- The 3-by-2 reciprocal datapath returns the reciprocal's value for every normalized divisor. R136 marks that claim
general knowledge; the value is that of R131, which the model accepts (log 9, DESIGN CHOICE), and the datapath stands
beside the command (log 16, DESIGN CHOICE). -/
def Obligations.Recip32DatapathIsExact : Prop :=
  ∀ d1 d0 : Word, 2 ^ 63 ≤ d1.toNat →
    (recip32Datapath d1 d0).toNat = recip32 (d1.toNat * B + d0.toNat)

/-- The 3-by-2 datapath returns the exact quotient and remainder whenever the preconditions of the step hold. R139 marks
that claim general knowledge; the reciprocal is the value of R131, which the model accepts (log 9, DESIGN CHOICE), and the
datapath stands beside the command (log 16, DESIGN CHOICE). -/
def Obligations.Div32DatapathIsExact : Prop :=
  ∀ (u2 u1 u0 d1 d0 v : Word) (D u : Nat), D = d1.toNat * B + d0.toNat →
    u = u2.toNat * B ^ 2 + u1.toNat * B + u0.toNat → 2 ^ 63 ≤ d1.toNat → u2.toNat * B + u1.toNat < D →
    v.toNat = recip32 D →
    (udivrem32Datapath u2 u1 u0 d1 d0 v).1.toNat = u / D ∧ (udivrem32Datapath u2 u1 u0 d1 d0 v).2.toNat = u % D

/-- One digit of Algorithm D (R162–R164): on a window below `Dv·B` the digit is the exact quotient, the window `W[j..j+n]`
becomes the remainder and every other limb of the working dividend stays, and the estimate was at most one too high, so at
most one add-back ran. The driver's loop stands beside DIVIDE (log 16, DESIGN CHOICE). -/
def Obligations.AlgorithmDDigitIsExact : Prop :=
  ∀ (n j D2 : Nat) (dv w : List Word), 3 ≤ n → dv.length = n → 2 ^ 63 ≤ (dv.getD (n - 1) 0).toNat →
    D2 = (dv.getD (n - 1) 0).toNat * B + (dv.getD (n - 2) 0).toNat →
    j + n < w.length → val (window w j n) < val dv * B →
    (manyLimbDigit D2 (val dv) n j w).1 = val (window w j n) / val dv ∧
    val (window (manyLimbDigit D2 (val dv) n j w).2 j n) = val (window w j n) % val dv ∧
    (manyLimbDigit D2 (val dv) n j w).2.length = w.length ∧
    (∀ i, i < j ∨ j + n < i → (manyLimbDigit D2 (val dv) n j w).2.getD i 0 = w.getD i 0) ∧
    val (window w j n) / val dv ≤ estimateDigit D2 (w.getD (j + n) 0) (w.getD (j + n - 1) 0) (w.getD (j + n - 2) 0) ∧
    estimateDigit D2 (w.getD (j + n) 0) (w.getD (j + n - 1) 0) (w.getD (j + n - 2) 0) ≤
      val (window w j n) / val dv + 1

/-- The reference driver, on every path, gives the exact quotient and remainder, and reports a zero divisor (R167). The
driver stands beside DIVIDE, which is the exact function, and its loops call the exact division steps (log 16, DESIGN
CHOICE). -/
def Obligations.ReferenceDriverIsExact : Prop :=
  ∀ (L : Nat) (us vs : List Word), 1 ≤ L → us.length = L → vs.length = L →
    driver L us vs = if val vs = 0 then none else some (limbs L (val us / val vs), limbs L (val us % val vs))

/-! ## The host -/

/-- What the pseudo-instructions expand to, and what the assembler refuses of them (R84, R88–R93): RDW reads `A[0]` to
`A[L−1]`, and `UN[0]` to `UN[L]`. The model's own in it: COPY's variable is numbered by its line (log 12, DESIGN CHOICE), and
an RDW's reads carry the mark by which its trace record is opened and added to (log 14, DEDUCED). -/
def Obligations.LineExpansions : Prop :=
  ∀ L k : Nat,
    (∀ (r : WindowReg) (src : Source), expandLine L k (.wr r src) = [.write (.word (addrOf r) 8) src]) ∧
    (∀ (r : WindowReg) (t : Option HostVar), expandLine L k (.rd r t) = [.read (.word (addrOf r) 8) .single t]) ∧
    (∀ i : Instr, expandLine L k (.cmd i) = [.write (.word 0x000 8) (.imm ((opcode i).setWidth 64))]) ∧
    (∀ (a : ArrayName) (x : Nat), expandLine L k (.wrw a x) =
      (List.range L).map fun i => .write (.word (addrOf (.data (.limb a i))) 8) (.imm (BitVec.ofNat 64 (x / B ^ i)))) ∧
    (∀ (a : ArrayName) (x : Nat), lineOk L (.wrw a x) = true ↔ (a = .u ∨ a = .v) ∧ x < B ^ L) ∧
    (∀ a : ArrayName, a ≠ .un → expandLine L k (.rdw a) =
      (List.range L).map fun i =>
        .read (.word (addrOf (.data (.limb a i))) 8) (if i = 0 then .wideFirst a else .wideNext i) none) ∧
    (expandLine L k (.rdw .un) =
      (List.range (L + 1)).map fun i =>
        .read (.word (addrOf (.data (.limb .un i))) 8) (if i = 0 then .wideFirst .un else .wideNext i) none) ∧
    (∀ (dst src : WindowReg), expandLine L k (.copy dst src) =
      [.read (.word (addrOf src) 8) .single (some (.tmp k)), .write (.word (addrOf dst) 8) (.var (.tmp k))]) ∧
    (∀ (dst src : WindowReg), lineOk L (.copy dst src) = true → dst.isReadWrite = true) ∧
    expandLine L k .wait = [.wait] ∧
    (∀ i : Instr, expandLine L k (.run i) = expandLine L k (.cmd i) ++ expandLine L k .wait)

/-- The worked encoding example (R94): the line `RUN DIV21` and its bus transactions. -/
def Obligations.WorkedEncodingExample : Prop :=
  (∀ L k : Nat, expandLine L k (.run .div21) = [.write (.word 0x000 8) (.imm 0x0000000000000003), .wait]) ∧
  busWriteText 0x000 0x0000000000000003 =
    ['W', ' ', '0', '0', '0', ' ', '0', '0', '0', '0', '0', '0', '0', '0', '0', '0', '0', '0', '0', '0', '0', '3'] ∧
  busReadText 0x001 = ['R', ' ', '0', '0', '1'] ∧ addrOf .status = 0x001 ∧ doneStatus.word = 0x0000000000000002

/-- One iteration of WAIT (R92): it repeats while BUSY and ends at the first read with `BUSY = 0`; it leaves the trace and
the engine alone (R87). The turn taken off the list is the model's own (log 1, DESIGN CHOICE). -/
def Obligations.WaitRepeatsWhileBusy : Prop :=
  ∀ (s : State) (rest : List Turn), s.fault = none → s.sched = .host :: rest → s.nextOp = some .wait →
    (s.status.busy = true → step s = .next { s with sched := rest }) ∧
    (s.status.busy = false →
      step s = .next { s with sched := rest, host := { s.host with pos := s.host.pos + 1 } })

/-- A read line appends `(reg, value)` to the trace, assigns its variable, and moves on (R84, R86, R87). That the
host has the next turn is said by the list of turns (log 1, DESIGN CHOICE). -/
def Obligations.ReadLineEntersTheTrace : Prop :=
  ∀ (s : State) (rest : List Turn) (a : WordAddr) (r : WindowReg) (w : Word) (dst : Option HostVar),
    s.fault = none → s.sched = .host :: rest → s.nextOp = some (.read (.word a 8) .single dst) →
    regAt s.L a = some r → memRead s a = .ok w →
    ∃ t, step s = .next t ∧ t.host.trace = s.host.trace ++ [.reg r w] ∧ t.host.pos = s.host.pos + 1 ∧
      t.host.program = s.host.program ∧ (∀ x, dst = some x → t.host.valueOf (.var x) = some w) ∧
      (∀ x, dst ≠ some x → t.host.valueOf (.var x) = s.host.valueOf (.var x)) ∧
      s.sameEngine t

/-- A forbidden access faults and has no other effect: the fault is recorded, and the host's position stays (R57, R183;
log 6, DEDUCED). The turn taken off the list is the model's own (log 1, DESIGN CHOICE). -/
def Obligations.ForbiddenAccessFaults : Prop :=
  ∀ (s : State) (rest : List Turn) (f : Fault), s.fault = none → s.sched = .host :: rest →
    (∀ (dst : BusAddr) (src : Source) (w : Word), s.nextOp = some (.write dst src) → s.host.valueOf src = some w →
      busWrite s dst w = .error f → step s = .next { s with sched := rest, fault := some f }) ∧
    (∀ (src : BusAddr) (mode : TraceMode) (dst : Option HostVar), s.nextOp = some (.read src mode dst) →
      busRead s src = .error f → step s = .next { s with sched := rest, fault := some f })

/-- RDW reads the limbs and records their `val` as one value of the trace (R90), of any array while `BUSY = 0` and of U and V
while `BUSY = 1` too (R207). That the line makes one record is the model's reading (log 14, DEDUCED), and that the host has
the turns the line takes is said by the list of turns (log 1, DESIGN CHOICE). -/
def Obligations.RdwRecordsTheWholeValue : Prop :=
  ∀ (s : State) (a : ArrayName) (ws : List Word) (k : Nat) (rest : List HostOp), s.Inv → s.fault = none →
    s.status.busy = false ∨ a.isResult = false → s.hostMovesNext (a.size s.L) → s.array a = ws.map .value →
    s.host.program.drop s.host.pos = expandLine s.L k (.rdw a) ++ rest →
    ∃ t, runSteps (a.size s.L) s = .next t ∧ t.host.trace = s.host.trace ++ [.wide a (val ws)] ∧
      t.host.pos = s.host.pos + a.size s.L ∧ t.host.program = s.host.program ∧ t.host.vars = s.host.vars ∧
      t.sched = s.sched.drop (a.size s.L) ∧ s.sameEngine t

/-- WRW writes the limbs of its literal (R89). That the host has the turns the line takes is said by the list of turns
(log 1, DESIGN CHOICE). -/
def Obligations.WrwWritesTheWholeValue : Prop :=
  ∀ (s : State) (a : ArrayName) (x k : Nat) (rest : List HostOp), s.Inv → s.fault = none →
    s.status.busy = false → s.hostMovesNext s.L → a = .u ∨ a = .v → x < B ^ s.L →
    s.host.program.drop s.host.pos = expandLine s.L k (.wrw a x) ++ rest →
    ∃ t, runSteps s.L s = .next t ∧ t.wide a = x ∧ t.array a = (limbs s.L x).map .value ∧
      (∀ n : RegName, (∀ i, n ≠ .limb a i) → t.reg n = s.reg n) ∧ t.status = s.status ∧ t.pending = s.pending ∧
      t.fault = none ∧ t.L = s.L ∧ t.sched = s.sched.drop s.L ∧ t.host = { s.host with pos := s.host.pos + s.L }

/-- COPY moves a register's value into an operand register (R91, R120, R140), through the variable numbered by its line
(log 12, DESIGN CHOICE). That the host has the two turns the line takes is said by the list of turns (log 1, DESIGN
CHOICE). -/
def Obligations.CopyMovesTheValue : Prop :=
  ∀ (s : State) (dst : RegName) (src : WindowReg) (w : Word) (k : Nat) (rest : List HostOp), s.Inv → s.fault = none →
    s.status.busy = false → s.hostMovesNext 2 → lineOk s.L (.copy (.data dst) src) = true →
    memRead s (addrOf src) = .ok w →
    s.host.program.drop s.host.pos = expandLine s.L k (.copy (.data dst) src) ++ rest →
    ∃ t, runSteps 2 s = .next t ∧ t.reg dst = .value w ∧ (∀ n : RegName, n ≠ dst → t.reg n = s.reg n) ∧
      t.host.trace = s.host.trace ++ [.reg src w] ∧ t.host.pos = s.host.pos + 2 ∧ t.status = s.status ∧
      t.pending = s.pending ∧ t.fault = none ∧ t.L = s.L ∧ t.sched = s.sched.drop 2 ∧
      t.host.valueOf (.var (.tmp k)) = some w

/-- A RUN line of a command whose rule completes, under every interleaving without a reset: WAIT re-reads as often as the
host's turns ask before the engine moves (R92, R209), and after the line STATUS has `BUSY = 0` and `DONE = 1` and holds the
command's CAUSE, and the registers are what the rule gives (R93). The number of steps is left open within the bound that
the finite list of turns gives (log 1, DESIGN CHOICE). -/
def Obligations.RunLineCompletes : Prop :=
  ∀ (s e : State) (i : Instr) (k : Nat) (rest : List HostOp), s.Inv → s.fault = none → s.status.busy = false →
    Turn.reset ∉ s.sched → exec i s = .next e →
    s.host.program.drop s.host.pos = expandLine s.L k (.run i) ++ rest →
    ∃ n, 3 ≤ n ∧ n ≤ s.sched.length + 3 ∧ ∃ t, runSteps n s = .next t ∧ t.status = e.status ∧
      t.status.busy = false ∧ t.status.done = true ∧ (∀ m : RegName, t.reg m = e.reg m) ∧ t.pending = none ∧
      t.fault = none ∧ t.L = s.L ∧ t.host = { s.host with pos := s.host.pos + 2 }

/-- Fairness (R209, R188): with no reset on the list of turns, a started command completes after finitely many steps,
at most one more than the turns left, or the machine faults. That the list is finite is the model's form of fairness
(log 1, DESIGN CHOICE). -/
def Obligations.StartedCommandCompletes : Prop :=
  ∀ s : State, s.Inv → s.HostInv → s.fault = none → s.status.busy = true → Turn.reset ∉ s.sched →
    ∃ k ≤ s.sched.length + 1, ∃ t, runSteps k s = .next t ∧
      (t.fault.isSome = true ∨ (t.status.busy = false ∧ t.status.done = true ∧ t.pending = none))

/-- The transactions of every program the assembler accepts never write an unassigned variable, every step keeps that,
and a step of a state that meets both invariants is never refused (R83, R84). The refusals ruled out are the model's own
(log 12, log 18, DESIGN CHOICE). -/
def Obligations.AssembledProgramsAreNeverRefused : Prop :=
  (∀ (s : State) (p : List Line) (ops : List HostOp), assemble s.L p = some ops → (s.load ops).HostInv) ∧
  (∀ s t : State, s.HostInv → step s = .next t → t.HostInv) ∧
  (∀ (s : State) (r : Refusal), s.Inv → s.HostInv → step s ≠ .refused r)

/-- The end of a run (R210): a final state has executed its last line, is not busy and not faulted. That a further step with
no turn left answers the same state is the model's choice (log 8 with log 1, DESIGN CHOICE). -/
def Obligations.FinalStatesStay : Prop :=
  ∀ s : State, (s.final = true ↔ s.host.program.length ≤ s.host.pos ∧ s.status.busy = false ∧ s.fault = none) ∧
    (s.final = true → s.sched = [] → step s = .next s)
end

