-- ==== Sys2Proof/Laws/Limbs.lean ====
section
/-! SUPPORT. Limb lists and the numbers they hold (R14). -/

namespace Sys2Proof.Machine

@[simp] theorem val_nil : val [] = 0 := rfl

@[simp] theorem val_cons (w : Word) (ws : List Word) : val (w :: ws) = w.toNat + B * val ws := rfl

/-- A `k`-limb value is below `B^k`. -/
theorem val_lt (ws : List Word) : val ws < B ^ ws.length := by
  induction ws with
  | nil => simp
  | cons w ws ih =>
    have hw : w.toNat < B := w.isLt
    have hle : val ws + 1 ≤ B ^ ws.length := ih
    calc val (w :: ws) < B + B * val ws := by simpa using hw
      _ = B * (val ws + 1) := by ring
      _ ≤ B * B ^ ws.length := Nat.mul_le_mul_left _ hle
      _ = B ^ (w :: ws).length := by simp [Nat.pow_succ, Nat.mul_comm]

theorem val_append (xs ys : List Word) : val (xs ++ ys) = val xs + B ^ xs.length * val ys := by
  induction xs with
  | nil => simp
  | cons x xs ih => simp only [List.cons_append, val_cons, ih, List.length_cons, Nat.pow_succ]; ring

@[simp] theorem length_limbs (k x : Nat) : (limbs k x).length = k := by simp [limbs]

/-- The limb list from its lowest limb up. -/
theorem limbs_succ (k x : Nat) : limbs (k + 1) x = BitVec.ofNat 64 x :: limbs k (x / B) := by
  simp only [limbs, List.range_succ_eq_map, List.map_cons, List.map_map]
  congr 1
  · simp [limbOf]
  · refine List.map_congr_left fun i _ => ?_
    simp [limbOf, Nat.pow_succ, Nat.div_div_eq_div_mul, Nat.mul_comm]

/-- `limbs_k` drops nothing of a value below `B^k`, and reduces any other modulo `B^k` (R14). -/
theorem val_limbs (k x : Nat) : val (limbs k x) = x % B ^ k := by
  induction k generalizing x with
  | zero => simp [limbs, Nat.mod_one]
  | succ k ih =>
    rw [limbs_succ, val_cons, ih, BitVec.toNat_ofNat, pow_succ' B k, Nat.mod_mul]

theorem val_limbs_of_lt {k x : Nat} (h : x < B ^ k) : val (limbs k x) = x := by
  rw [val_limbs, Nat.mod_eq_of_lt h]

/-- A limb list is determined by its length and its value (R14). -/
theorem limbs_val (ws : List Word) : limbs ws.length (val ws) = ws := by
  induction ws with
  | nil => simp [limbs]
  | cons w ws ih =>
    have hB : 0 < B := by simp
    rw [List.length_cons, limbs_succ, val_cons, Nat.add_mul_div_left _ _ hB, Nat.div_eq_of_lt w.isLt, Nat.zero_add, ih]
    congr 1
    apply BitVec.eq_of_toNat_eq
    rw [BitVec.toNat_ofNat, Nat.add_mul_mod_self_left, Nat.mod_eq_of_lt w.isLt]

@[simp] theorem length_written (ws : List Word) : (written ws).length = ws.length := by simp [written]

theorem wideOperand_written (ws : List Word) : wideOperand (written ws) = some ws := by
  induction ws with
  | nil => rfl
  | cons w ws ih =>
    have : wideOperand (RegVal.value w :: written ws) = some (w :: ws) := by
      simp [wideOperand, RegVal.get?, ih]
    simpa [written] using this

/-- An array read as an operand was written, limb for limb (R78, R80). -/
theorem wideOperand_eq_some {xs : List RegVal} {ws : List Word} : wideOperand xs = some ws ↔ xs = written ws := by
  constructor
  · intro h
    induction xs generalizing ws with
    | nil => simp [wideOperand] at h; simp [← h, written]
    | cons x xs ih =>
      cases x with
      | unwritten => simp [wideOperand, RegVal.get?] at h
      | value w =>
        cases hx : wideOperand xs with
        | none => simp [wideOperand, RegVal.get?, hx] at h
        | some vs =>
          simp [wideOperand, RegVal.get?, hx] at h
          simp [← h, ih hx, written]
  · rintro rfl
    exact wideOperand_written ws

end Sys2Proof.Machine
end

