-- ==== Sys2Proof/Laws/State.lean ====
section
/-! SUPPORT. The updates of State, field by field, so that no later proof unfolds a record update. -/

namespace Sys2Proof.Machine

variable (s : State)

/-! ## `start` (R24) -/

@[simp] theorem State.start_L (w : Word) : (s.start w).L = s.L := rfl
@[simp] theorem State.start_status (w : Word) : (s.start w).status = Status.started := rfl
@[simp] theorem State.start_pending (w : Word) : (s.start w).pending = some w := rfl
@[simp] theorem State.start_x0 (w : Word) : (s.start w).x0 = s.x0 := rfl
@[simp] theorem State.start_x1 (w : Word) : (s.start w).x1 = s.x1 := rfl
@[simp] theorem State.start_x2 (w : Word) : (s.start w).x2 = s.x2 := rfl
@[simp] theorem State.start_y0 (w : Word) : (s.start w).y0 = s.y0 := rfl
@[simp] theorem State.start_y1 (w : Word) : (s.start w).y1 = s.y1 := rfl
@[simp] theorem State.start_vr (w : Word) : (s.start w).vr = s.vr := rfl
@[simp] theorem State.start_qs (w : Word) : (s.start w).qs = s.qs := rfl
@[simp] theorem State.start_rs0 (w : Word) : (s.start w).rs0 = s.rs0 := rfl
@[simp] theorem State.start_rs1 (w : Word) : (s.start w).rs1 = s.rs1 := rfl
@[simp] theorem State.start_rcp (w : Word) : (s.start w).rcp = s.rcp := rfl
@[simp] theorem State.start_shift (w : Word) : (s.start w).shift = s.shift := rfl
@[simp] theorem State.start_u (w : Word) : (s.start w).u = s.u := rfl
@[simp] theorem State.start_v (w : Word) : (s.start w).v = s.v := rfl
@[simp] theorem State.start_q (w : Word) : (s.start w).q = s.q := rfl
@[simp] theorem State.start_r (w : Word) : (s.start w).r = s.r := rfl
@[simp] theorem State.start_un (w : Word) : (s.start w).un = s.un := rfl
@[simp] theorem State.start_vn (w : Word) : (s.start w).vn = s.vn := rfl
@[simp] theorem State.start_fault (w : Word) : (s.start w).fault = s.fault := rfl
@[simp] theorem State.start_host (w : Word) : (s.start w).host = s.host := rfl
@[simp] theorem State.start_sched (w : Word) : (s.start w).sched = s.sched := rfl

@[simp] theorem State.start_scalar (w : Word) (m : ScalarName) : (s.start w).scalar m = s.scalar m := by cases m <;> rfl
@[simp] theorem State.start_array (w : Word) (a : ArrayName) : (s.start w).array a = s.array a := by cases a <;> rfl
@[simp] theorem State.start_reg (w : Word) (m : RegName) : (s.start w).reg m = s.reg m := by
  cases m <;> simp [State.reg]

/-! ## `complete` (R24) -/

@[simp] theorem State.complete_L (c : BitVec 4) : (s.complete c).L = s.L := rfl
@[simp] theorem State.complete_status (c : BitVec 4) : (s.complete c).status = Status.completed c := rfl
@[simp] theorem State.complete_pending (c : BitVec 4) : (s.complete c).pending = none := rfl
@[simp] theorem State.complete_x0 (c : BitVec 4) : (s.complete c).x0 = s.x0 := rfl
@[simp] theorem State.complete_x1 (c : BitVec 4) : (s.complete c).x1 = s.x1 := rfl
@[simp] theorem State.complete_x2 (c : BitVec 4) : (s.complete c).x2 = s.x2 := rfl
@[simp] theorem State.complete_y0 (c : BitVec 4) : (s.complete c).y0 = s.y0 := rfl
@[simp] theorem State.complete_y1 (c : BitVec 4) : (s.complete c).y1 = s.y1 := rfl
@[simp] theorem State.complete_vr (c : BitVec 4) : (s.complete c).vr = s.vr := rfl
@[simp] theorem State.complete_qs (c : BitVec 4) : (s.complete c).qs = s.qs := rfl
@[simp] theorem State.complete_rs0 (c : BitVec 4) : (s.complete c).rs0 = s.rs0 := rfl
@[simp] theorem State.complete_rs1 (c : BitVec 4) : (s.complete c).rs1 = s.rs1 := rfl
@[simp] theorem State.complete_rcp (c : BitVec 4) : (s.complete c).rcp = s.rcp := rfl
@[simp] theorem State.complete_shift (c : BitVec 4) : (s.complete c).shift = s.shift := rfl
@[simp] theorem State.complete_u (c : BitVec 4) : (s.complete c).u = s.u := rfl
@[simp] theorem State.complete_v (c : BitVec 4) : (s.complete c).v = s.v := rfl
@[simp] theorem State.complete_q (c : BitVec 4) : (s.complete c).q = s.q := rfl
@[simp] theorem State.complete_r (c : BitVec 4) : (s.complete c).r = s.r := rfl
@[simp] theorem State.complete_un (c : BitVec 4) : (s.complete c).un = s.un := rfl
@[simp] theorem State.complete_vn (c : BitVec 4) : (s.complete c).vn = s.vn := rfl
@[simp] theorem State.complete_fault (c : BitVec 4) : (s.complete c).fault = s.fault := rfl
@[simp] theorem State.complete_host (c : BitVec 4) : (s.complete c).host = s.host := rfl
@[simp] theorem State.complete_sched (c : BitVec 4) : (s.complete c).sched = s.sched := rfl

@[simp] theorem State.complete_scalar (c : BitVec 4) (m : ScalarName) : (s.complete c).scalar m = s.scalar m := by cases m <;> rfl
@[simp] theorem State.complete_array (c : BitVec 4) (a : ArrayName) : (s.complete c).array a = s.array a := by cases a <;> rfl
@[simp] theorem State.complete_reg (c : BitVec 4) (m : RegName) : (s.complete c).reg m = s.reg m := by
  cases m <;> simp [State.reg]

/-! ## `raise` (R183) -/

@[simp] theorem State.raise_L (f : Fault) : (s.raise f).L = s.L := rfl
@[simp] theorem State.raise_status (f : Fault) : (s.raise f).status = s.status := rfl
@[simp] theorem State.raise_pending (f : Fault) : (s.raise f).pending = s.pending := rfl
@[simp] theorem State.raise_x0 (f : Fault) : (s.raise f).x0 = s.x0 := rfl
@[simp] theorem State.raise_x1 (f : Fault) : (s.raise f).x1 = s.x1 := rfl
@[simp] theorem State.raise_x2 (f : Fault) : (s.raise f).x2 = s.x2 := rfl
@[simp] theorem State.raise_y0 (f : Fault) : (s.raise f).y0 = s.y0 := rfl
@[simp] theorem State.raise_y1 (f : Fault) : (s.raise f).y1 = s.y1 := rfl
@[simp] theorem State.raise_vr (f : Fault) : (s.raise f).vr = s.vr := rfl
@[simp] theorem State.raise_qs (f : Fault) : (s.raise f).qs = s.qs := rfl
@[simp] theorem State.raise_rs0 (f : Fault) : (s.raise f).rs0 = s.rs0 := rfl
@[simp] theorem State.raise_rs1 (f : Fault) : (s.raise f).rs1 = s.rs1 := rfl
@[simp] theorem State.raise_rcp (f : Fault) : (s.raise f).rcp = s.rcp := rfl
@[simp] theorem State.raise_shift (f : Fault) : (s.raise f).shift = s.shift := rfl
@[simp] theorem State.raise_u (f : Fault) : (s.raise f).u = s.u := rfl
@[simp] theorem State.raise_v (f : Fault) : (s.raise f).v = s.v := rfl
@[simp] theorem State.raise_q (f : Fault) : (s.raise f).q = s.q := rfl
@[simp] theorem State.raise_r (f : Fault) : (s.raise f).r = s.r := rfl
@[simp] theorem State.raise_un (f : Fault) : (s.raise f).un = s.un := rfl
@[simp] theorem State.raise_vn (f : Fault) : (s.raise f).vn = s.vn := rfl
@[simp] theorem State.raise_fault (f : Fault) : (s.raise f).fault = some f := rfl
@[simp] theorem State.raise_host (f : Fault) : (s.raise f).host = s.host := rfl
@[simp] theorem State.raise_sched (f : Fault) : (s.raise f).sched = s.sched := rfl

@[simp] theorem State.raise_scalar (f : Fault) (m : ScalarName) : (s.raise f).scalar m = s.scalar m := by cases m <;> rfl
@[simp] theorem State.raise_array (f : Fault) (a : ArrayName) : (s.raise f).array a = s.array a := by cases a <;> rfl
@[simp] theorem State.raise_reg (f : Fault) (m : RegName) : (s.raise f).reg m = s.reg m := by
  cases m <;> simp [State.reg]

/-! ## `advance` (R86) -/

@[simp] theorem State.advance_L : (s.advance).L = s.L := rfl
@[simp] theorem State.advance_status : (s.advance).status = s.status := rfl
@[simp] theorem State.advance_pending : (s.advance).pending = s.pending := rfl
@[simp] theorem State.advance_x0 : (s.advance).x0 = s.x0 := rfl
@[simp] theorem State.advance_x1 : (s.advance).x1 = s.x1 := rfl
@[simp] theorem State.advance_x2 : (s.advance).x2 = s.x2 := rfl
@[simp] theorem State.advance_y0 : (s.advance).y0 = s.y0 := rfl
@[simp] theorem State.advance_y1 : (s.advance).y1 = s.y1 := rfl
@[simp] theorem State.advance_vr : (s.advance).vr = s.vr := rfl
@[simp] theorem State.advance_qs : (s.advance).qs = s.qs := rfl
@[simp] theorem State.advance_rs0 : (s.advance).rs0 = s.rs0 := rfl
@[simp] theorem State.advance_rs1 : (s.advance).rs1 = s.rs1 := rfl
@[simp] theorem State.advance_rcp : (s.advance).rcp = s.rcp := rfl
@[simp] theorem State.advance_shift : (s.advance).shift = s.shift := rfl
@[simp] theorem State.advance_u : (s.advance).u = s.u := rfl
@[simp] theorem State.advance_v : (s.advance).v = s.v := rfl
@[simp] theorem State.advance_q : (s.advance).q = s.q := rfl
@[simp] theorem State.advance_r : (s.advance).r = s.r := rfl
@[simp] theorem State.advance_un : (s.advance).un = s.un := rfl
@[simp] theorem State.advance_vn : (s.advance).vn = s.vn := rfl
@[simp] theorem State.advance_fault : (s.advance).fault = s.fault := rfl
@[simp] theorem State.advance_host : (s.advance).host = { s.host with pos := s.host.pos + 1 } := rfl
@[simp] theorem State.advance_sched : (s.advance).sched = s.sched := rfl

@[simp] theorem State.advance_scalar (m : ScalarName) : (s.advance).scalar m = s.scalar m := by cases m <;> rfl
@[simp] theorem State.advance_array (a : ArrayName) : (s.advance).array a = s.array a := by cases a <;> rfl
@[simp] theorem State.advance_reg (m : RegName) : (s.advance).reg m = s.reg m := by
  cases m <;> simp [State.reg]

/-! ## `load` (log 7) -/

@[simp] theorem State.load_L (p : List HostOp) : (s.load p).L = s.L := rfl
@[simp] theorem State.load_status (p : List HostOp) : (s.load p).status = s.status := rfl
@[simp] theorem State.load_pending (p : List HostOp) : (s.load p).pending = s.pending := rfl
@[simp] theorem State.load_x0 (p : List HostOp) : (s.load p).x0 = s.x0 := rfl
@[simp] theorem State.load_x1 (p : List HostOp) : (s.load p).x1 = s.x1 := rfl
@[simp] theorem State.load_x2 (p : List HostOp) : (s.load p).x2 = s.x2 := rfl
@[simp] theorem State.load_y0 (p : List HostOp) : (s.load p).y0 = s.y0 := rfl
@[simp] theorem State.load_y1 (p : List HostOp) : (s.load p).y1 = s.y1 := rfl
@[simp] theorem State.load_vr (p : List HostOp) : (s.load p).vr = s.vr := rfl
@[simp] theorem State.load_qs (p : List HostOp) : (s.load p).qs = s.qs := rfl
@[simp] theorem State.load_rs0 (p : List HostOp) : (s.load p).rs0 = s.rs0 := rfl
@[simp] theorem State.load_rs1 (p : List HostOp) : (s.load p).rs1 = s.rs1 := rfl
@[simp] theorem State.load_rcp (p : List HostOp) : (s.load p).rcp = s.rcp := rfl
@[simp] theorem State.load_shift (p : List HostOp) : (s.load p).shift = s.shift := rfl
@[simp] theorem State.load_u (p : List HostOp) : (s.load p).u = s.u := rfl
@[simp] theorem State.load_v (p : List HostOp) : (s.load p).v = s.v := rfl
@[simp] theorem State.load_q (p : List HostOp) : (s.load p).q = s.q := rfl
@[simp] theorem State.load_r (p : List HostOp) : (s.load p).r = s.r := rfl
@[simp] theorem State.load_un (p : List HostOp) : (s.load p).un = s.un := rfl
@[simp] theorem State.load_vn (p : List HostOp) : (s.load p).vn = s.vn := rfl
@[simp] theorem State.load_fault (p : List HostOp) : (s.load p).fault = s.fault := rfl
@[simp] theorem State.load_host (p : List HostOp) : (s.load p).host = ⟨p, 0, [], []⟩ := rfl
@[simp] theorem State.load_sched (p : List HostOp) : (s.load p).sched = s.sched := rfl

@[simp] theorem State.load_scalar (p : List HostOp) (m : ScalarName) : (s.load p).scalar m = s.scalar m := by cases m <;> rfl
@[simp] theorem State.load_array (p : List HostOp) (a : ArrayName) : (s.load p).array a = s.array a := by cases a <;> rfl
@[simp] theorem State.load_reg (p : List HostOp) (m : RegName) : (s.load p).reg m = s.reg m := by
  cases m <;> simp [State.reg]

/-! ## `withTurns` (log 1) -/

@[simp] theorem State.withTurns_L (rest : List Turn) : (s.withTurns rest).L = s.L := rfl
@[simp] theorem State.withTurns_status (rest : List Turn) : (s.withTurns rest).status = s.status := rfl
@[simp] theorem State.withTurns_pending (rest : List Turn) : (s.withTurns rest).pending = s.pending := rfl
@[simp] theorem State.withTurns_x0 (rest : List Turn) : (s.withTurns rest).x0 = s.x0 := rfl
@[simp] theorem State.withTurns_x1 (rest : List Turn) : (s.withTurns rest).x1 = s.x1 := rfl
@[simp] theorem State.withTurns_x2 (rest : List Turn) : (s.withTurns rest).x2 = s.x2 := rfl
@[simp] theorem State.withTurns_y0 (rest : List Turn) : (s.withTurns rest).y0 = s.y0 := rfl
@[simp] theorem State.withTurns_y1 (rest : List Turn) : (s.withTurns rest).y1 = s.y1 := rfl
@[simp] theorem State.withTurns_vr (rest : List Turn) : (s.withTurns rest).vr = s.vr := rfl
@[simp] theorem State.withTurns_qs (rest : List Turn) : (s.withTurns rest).qs = s.qs := rfl
@[simp] theorem State.withTurns_rs0 (rest : List Turn) : (s.withTurns rest).rs0 = s.rs0 := rfl
@[simp] theorem State.withTurns_rs1 (rest : List Turn) : (s.withTurns rest).rs1 = s.rs1 := rfl
@[simp] theorem State.withTurns_rcp (rest : List Turn) : (s.withTurns rest).rcp = s.rcp := rfl
@[simp] theorem State.withTurns_shift (rest : List Turn) : (s.withTurns rest).shift = s.shift := rfl
@[simp] theorem State.withTurns_u (rest : List Turn) : (s.withTurns rest).u = s.u := rfl
@[simp] theorem State.withTurns_v (rest : List Turn) : (s.withTurns rest).v = s.v := rfl
@[simp] theorem State.withTurns_q (rest : List Turn) : (s.withTurns rest).q = s.q := rfl
@[simp] theorem State.withTurns_r (rest : List Turn) : (s.withTurns rest).r = s.r := rfl
@[simp] theorem State.withTurns_un (rest : List Turn) : (s.withTurns rest).un = s.un := rfl
@[simp] theorem State.withTurns_vn (rest : List Turn) : (s.withTurns rest).vn = s.vn := rfl
@[simp] theorem State.withTurns_fault (rest : List Turn) : (s.withTurns rest).fault = s.fault := rfl
@[simp] theorem State.withTurns_host (rest : List Turn) : (s.withTurns rest).host = s.host := rfl
@[simp] theorem State.withTurns_sched (rest : List Turn) : (s.withTurns rest).sched = rest := rfl

@[simp] theorem State.withTurns_scalar (rest : List Turn) (m : ScalarName) :
    (s.withTurns rest).scalar m = s.scalar m := by
  cases m <;> rfl
@[simp] theorem State.withTurns_array (rest : List Turn) (a : ArrayName) :
    (s.withTurns rest).array a = s.array a := by
  cases a <;> rfl
@[simp] theorem State.withTurns_reg (rest : List Turn) (m : RegName) : (s.withTurns rest).reg m = s.reg m := by
  cases m <;> simp [State.reg]

/-! ## Register writes (R17) -/

@[simp] theorem State.setScalar_L (m : ScalarName) (x : RegVal) : (s.setScalar m x).L = s.L := by cases m <;> rfl
@[simp] theorem State.setArray_L (a : ArrayName) (xs : List RegVal) : (s.setArray a xs).L = s.L := by cases a <;> rfl
@[simp] theorem State.setReg_L (m : RegName) (w : Word) : (s.setReg m w).L = s.L := by
  cases m <;> simp [State.setReg]
@[simp] theorem State.setScalar_status (m : ScalarName) (x : RegVal) : (s.setScalar m x).status = s.status := by cases m <;> rfl
@[simp] theorem State.setArray_status (a : ArrayName) (xs : List RegVal) : (s.setArray a xs).status = s.status := by cases a <;> rfl
@[simp] theorem State.setReg_status (m : RegName) (w : Word) : (s.setReg m w).status = s.status := by
  cases m <;> simp [State.setReg]
@[simp] theorem State.setScalar_pending (m : ScalarName) (x : RegVal) : (s.setScalar m x).pending = s.pending := by cases m <;> rfl
@[simp] theorem State.setArray_pending (a : ArrayName) (xs : List RegVal) : (s.setArray a xs).pending = s.pending := by cases a <;> rfl
@[simp] theorem State.setReg_pending (m : RegName) (w : Word) : (s.setReg m w).pending = s.pending := by
  cases m <;> simp [State.setReg]
@[simp] theorem State.setScalar_fault (m : ScalarName) (x : RegVal) : (s.setScalar m x).fault = s.fault := by cases m <;> rfl
@[simp] theorem State.setArray_fault (a : ArrayName) (xs : List RegVal) : (s.setArray a xs).fault = s.fault := by cases a <;> rfl
@[simp] theorem State.setReg_fault (m : RegName) (w : Word) : (s.setReg m w).fault = s.fault := by
  cases m <;> simp [State.setReg]
@[simp] theorem State.setScalar_host (m : ScalarName) (x : RegVal) : (s.setScalar m x).host = s.host := by cases m <;> rfl
@[simp] theorem State.setArray_host (a : ArrayName) (xs : List RegVal) : (s.setArray a xs).host = s.host := by cases a <;> rfl
@[simp] theorem State.setReg_host (m : RegName) (w : Word) : (s.setReg m w).host = s.host := by
  cases m <;> simp [State.setReg]
@[simp] theorem State.setScalar_sched (m : ScalarName) (x : RegVal) : (s.setScalar m x).sched = s.sched := by cases m <;> rfl
@[simp] theorem State.setArray_sched (a : ArrayName) (xs : List RegVal) : (s.setArray a xs).sched = s.sched := by cases a <;> rfl
@[simp] theorem State.setReg_sched (m : RegName) (w : Word) : (s.setReg m w).sched = s.sched := by
  cases m <;> simp [State.setReg]

@[simp] theorem State.setScalar_scalar_same (m : ScalarName) (x : RegVal) : (s.setScalar m x).scalar m = x := by
  cases m <;> rfl

theorem State.setScalar_scalar_other {m k : ScalarName} (x : RegVal) (h : k ≠ m) :
    (s.setScalar m x).scalar k = s.scalar k := by
  cases m <;> cases k <;> first | rfl | exact absurd rfl h

@[simp] theorem State.setScalar_array (m : ScalarName) (x : RegVal) (a : ArrayName) :
    (s.setScalar m x).array a = s.array a := by
  cases m <;> cases a <;> rfl

@[simp] theorem State.setArray_scalar (a : ArrayName) (xs : List RegVal) (m : ScalarName) :
    (s.setArray a xs).scalar m = s.scalar m := by
  cases m <;> cases a <;> rfl

@[simp] theorem State.setArray_array_same (a : ArrayName) (xs : List RegVal) : (s.setArray a xs).array a = xs := by
  cases a <;> rfl

theorem State.setArray_array_other {a b : ArrayName} (xs : List RegVal) (h : b ≠ a) :
    (s.setArray a xs).array b = s.array b := by
  cases a <;> cases b <;> first | rfl | exact absurd rfl h

/-- Read after write: the register written (R61). -/
theorem State.setReg_reg_same {n : RegName} (w : Word) (h : ∀ a i, n = .limb a i → i < (s.array a).length) :
    (s.setReg n w).reg n = .value w := by
  cases n with
  | scalar m => simp [State.setReg, State.reg]
  | limb a i => simp [State.setReg, State.reg, List.getD_eq_getElem?_getD, h a i rfl]

/-- Read after write: every other register (R60). -/
theorem State.setReg_reg_other {n k : RegName} (w : Word) (h : k ≠ n) : (s.setReg n w).reg k = s.reg k := by
  cases n with
  | scalar m =>
    cases k with
    | scalar m' => exact s.setScalar_scalar_other _ (fun e => h (by rw [e]))
    | limb a i => simp [State.setReg, State.reg]
  | limb a i =>
    cases k with
    | scalar m' => simp [State.setReg, State.reg]
    | limb b j =>
      by_cases hb : b = a
      · subst hb
        have hj : i ≠ j := fun e => h (by rw [e])
        simp [State.setReg, State.reg, List.getD_eq_getElem?_getD, List.getElem?_set_ne hj]
      · simp [State.setReg, State.reg, s.setArray_array_other _ hb]

/-- A register write keeps the length of every array. -/
@[simp] theorem State.setReg_array_length (n : RegName) (w : Word) (a : ArrayName) :
    ((s.setReg n w).array a).length = (s.array a).length := by
  cases n with
  | scalar m => simp [State.setReg]
  | limb b i =>
    by_cases hb : a = b
    · subst hb; simp [State.setReg]
    · simp [State.setReg, s.setArray_array_other _ hb]

/-! ## Reset (R41, R200) -/

@[simp] theorem State.resetFor_scalar (L : Nat) (m : ScalarName) : (State.resetFor L).scalar m = .unwritten := by
  cases m <;> rfl

@[simp] theorem State.resetFor_array (L : Nat) (a : ArrayName) :
    (State.resetFor L).array a = List.replicate (a.size L) .unwritten := by
  cases a <;> rfl

@[simp] theorem State.resetEngine_L : s.resetEngine.L = s.L := rfl
@[simp] theorem State.resetEngine_status : s.resetEngine.status = ⟨false, false, false, 0⟩ := rfl
@[simp] theorem State.resetEngine_pending : s.resetEngine.pending = none := rfl
@[simp] theorem State.resetEngine_fault : s.resetEngine.fault = none := rfl
@[simp] theorem State.resetEngine_host : s.resetEngine.host = s.host := rfl
@[simp] theorem State.resetEngine_sched : s.resetEngine.sched = s.sched := rfl

@[simp] theorem State.resetEngine_scalar (m : ScalarName) : s.resetEngine.scalar m = .unwritten := by
  cases m <;> rfl

@[simp] theorem State.resetEngine_array (a : ArrayName) :
    s.resetEngine.array a = List.replicate (a.size s.L) .unwritten := by
  cases a <;> rfl

end Sys2Proof.Machine
end

