-- ==== Sys2Proof/Laws/Exec.lean ====
section
/-! SUPPORT. What the command rules and the step can do, said once each (one lemma per shared operation and meaning):
"if it answers next t, then …", for the proofs to cite instead of unfolding. -/

namespace Sys2Proof.Machine

variable {s t : State}

/-! ## Operand assembly (R78) -/

@[simp] theorem RegVal.get?_value (x : Word) : (RegVal.value x).get? = some x := rfl

@[simp] theorem RegVal.get?_unwritten : RegVal.unwritten.get? = none := rfl

theorem RegVal.get?_eq_some {x : RegVal} {w : Word} : x.get? = some w ↔ x = .value w := by
  cases x <;> simp

theorem RegVal.get?_eq_none {x : RegVal} : x.get? = none ↔ x = .unwritten := by
  cases x <;> simp

theorem wideOperands_eq_some {o : WideOperands} :
    wideOperands s = some o ↔ s.u = written o.u ∧ s.v = written o.v := by
  obtain ⟨u, v⟩ := o
  simp [wideOperands, Option.bind_eq_some_iff, wideOperand_eq_some]

theorem div21Operands_eq_some {o : Div21Operands} :
    div21Operands s = some o ↔ s.x1 = .value o.u1 ∧ s.x0 = .value o.u0 ∧ s.y0 = .value o.d ∧ s.vr = .value o.v := by
  obtain ⟨u1, u0, d, v⟩ := o
  simp [div21Operands, Option.bind_eq_some_iff, RegVal.get?_eq_some]

theorem recip32Operands_eq_some {o : Recip32Operands} :
    recip32Operands s = some o ↔ s.y1 = .value o.d1 ∧ s.y0 = .value o.d0 := by
  obtain ⟨d1, d0⟩ := o
  simp [recip32Operands, Option.bind_eq_some_iff, RegVal.get?_eq_some]

theorem div32Operands_eq_some {o : Div32Operands} :
    div32Operands s = some o ↔ s.x2 = .value o.u2 ∧ s.x1 = .value o.u1 ∧ s.x0 = .value o.u0 ∧
      s.y1 = .value o.d1 ∧ s.y0 = .value o.d0 ∧ s.vr = .value o.v := by
  obtain ⟨u2, u1, u0, d1, d0, v⟩ := o
  simp [div32Operands, Option.bind_eq_some_iff, RegVal.get?_eq_some]

theorem withOperands_next {α : Type} {x : Option α} {rule : α → Host.Outcome State Fault Refusal} :
    withOperands x rule = .next t ↔ ∃ o, x = some o ∧ rule o = .next t := by
  cases x <;> simp [withOperands]

theorem requirePrecondition_next {p : Bool} {rule : Host.Outcome State Fault Refusal} :
    requirePrecondition p rule = .next t ↔ p = true ∧ rule = .next t := by
  cases p <;> simp [requirePrecondition]

/-! ## The command rules -/

theorem execNorm_next (h : execNorm s = .next t) :
    ∃ o, wideOperands s = some o ∧ val o.v ≠ 0 ∧
      t = State.complete
        { s with
          shift := .value (BitVec.ofNat 64 (normalizeUV s.L o.u o.v).s)
          un := written (normalizeUV s.L o.u o.v).un
          vn := written (normalizeUV s.L o.u o.v).vn } causeNone := by
  obtain ⟨o, ho, h⟩ := withOperands_next.1 h
  obtain ⟨hp, h⟩ := requirePrecondition_next.1 h
  exact ⟨o, ho, by simpa using hp, (Host.Outcome.next.inj h).symm⟩

theorem execRecip21_next (h : execRecip21 s = .next t) :
    ∃ d, s.y0 = .value d ∧ normalized d = true ∧
      t = State.complete { s with rcp := .value (BitVec.ofNat 64 (recip21 d.toNat)) } causeNone := by
  obtain ⟨d, hd, h⟩ := withOperands_next.1 h
  obtain ⟨hp, h⟩ := requirePrecondition_next.1 h
  exact ⟨d, RegVal.get?_eq_some.1 hd, hp, (Host.Outcome.next.inj h).symm⟩

theorem execDiv21_next (h : execDiv21 s = .next t) :
    ∃ o, div21Operands s = some o ∧ div21Pre o = true ∧
      t = State.complete
        { s with
          qs := .value (BitVec.ofNat 64 (pair o.u1 o.u0 / o.d.toNat))
          rs0 := .value (BitVec.ofNat 64 (pair o.u1 o.u0 % o.d.toNat)) } causeNone := by
  obtain ⟨o, ho, h⟩ := withOperands_next.1 h
  obtain ⟨hp, h⟩ := requirePrecondition_next.1 h
  exact ⟨o, ho, hp, (Host.Outcome.next.inj h).symm⟩

theorem execRecip32_next (h : execRecip32 s = .next t) :
    ∃ o, recip32Operands s = some o ∧ normalized o.d1 = true ∧
      t = State.complete { s with rcp := .value (BitVec.ofNat 64 (recip32 (pair o.d1 o.d0))) } causeNone := by
  obtain ⟨o, ho, h⟩ := withOperands_next.1 h
  obtain ⟨hp, h⟩ := requirePrecondition_next.1 h
  exact ⟨o, ho, hp, (Host.Outcome.next.inj h).symm⟩

theorem execDiv32_next (h : execDiv32 s = .next t) :
    ∃ o, div32Operands s = some o ∧ div32Pre o = true ∧
      t = State.complete
        { s with
          qs := .value (BitVec.ofNat 64 (triple o.u2 o.u1 o.u0 / pair o.d1 o.d0))
          rs0 := .value (limbOf 0 (triple o.u2 o.u1 o.u0 % pair o.d1 o.d0))
          rs1 := .value (limbOf 1 (triple o.u2 o.u1 o.u0 % pair o.d1 o.d0)) } causeNone := by
  obtain ⟨o, ho, h⟩ := withOperands_next.1 h
  obtain ⟨hp, h⟩ := requirePrecondition_next.1 h
  exact ⟨o, ho, hp, (Host.Outcome.next.inj h).symm⟩

theorem execDivide_next (h : execDivide s = .next t) :
    ∃ o, wideOperands s = some o ∧
      ((val o.v = 0 ∧ t = s.complete causeDivByZero) ∨
        (val o.v ≠ 0 ∧
          t = State.complete
            { s with
              q := written (limbs s.L (val o.u / val o.v))
              r := written (limbs s.L (val o.u % val o.v)) } causeNone)) := by
  obtain ⟨o, ho, h⟩ := withOperands_next.1 h
  refine ⟨o, ho, ?_⟩
  split at h
  · exact .inl ⟨‹_›, (Host.Outcome.next.inj h).symm⟩
  · exact .inr ⟨‹_›, (Host.Outcome.next.inj h).symm⟩

/-- No command rule refuses. -/
theorem exec_not_refused (i : Instr) (r : Refusal) : exec i s ≠ .refused r := by
  have hw : ∀ {α : Type} (x : Option α) (rule : α → Host.Outcome State Fault Refusal),
      (∀ o, rule o ≠ .refused r) → withOperands x rule ≠ .refused r := by
    intro α x rule h; cases x with
    | none => simp [withOperands]
    | some o => exact h o
  have hp : ∀ (p : Bool) (t : State), requirePrecondition p (.next t) ≠ .refused r := by
    intro p t; cases p <;> simp [requirePrecondition]
  cases i with
  | norm => exact hw _ _ fun o => hp _ _
  | recip21 => exact hw _ _ fun o => hp _ _
  | div21 => exact hw _ _ fun o => hp _ _
  | recip32 => exact hw _ _ fun o => hp _ _
  | div32 => exact hw _ _ fun o => hp _ _
  | divide => exact hw _ _ fun o => by split <;> simp

/-! ## The engine's step -/

/-- Everything an engine step can do when it answers next (R80). -/
theorem engineStep_next (h : engineStep s = .next t) :
    ∃ w, s.pending = some w ∧
      ((∃ why, decode w = .illegal why ∧ t = s.complete causeIllegalCommand) ∨
        (∃ i, decode w = .command i ∧ exec i s = .next t) ∨
        (∃ i f, decode w = .command i ∧ exec i s = .fault f ∧ t = s.raise f)) := by
  unfold engineStep at h
  split at h
  · cases h
  · refine ⟨_, ‹_›, ?_⟩
    split at h
    · exact .inl ⟨_, ‹_›, (Host.Outcome.next.inj h).symm⟩
    · rename_i i hi
      cases he : exec i s with
      | next t' => rw [he] at h; exact .inr (.inl ⟨i, hi, by rw [he]; exact h⟩)
      | fault f => rw [he] at h; exact .inr (.inr ⟨i, f, hi, he, (Host.Outcome.next.inj h).symm⟩)
      | refused r => exact absurd he (exec_not_refused i r)

/-! ## The host's accesses -/

/-- Everything `MemRead` can return (R55). -/
theorem memRead_ok {a : WordAddr} {w : Word} (h : memRead s a = .ok w) :
    (regAt s.L a = some .cmd ∧ w = 0) ∨ (regAt s.L a = some .status ∧ w = s.status.word) ∨
      (regAt s.L a = some .config ∧ w = configWord s.L) ∨
        ∃ n, regAt s.L a = some (.data n) ∧ ¬ (s.status.busy = true ∧ n.isResult = true) ∧ s.reg n = .value w := by
  unfold memRead at h
  split at h
  · cases h
  · exact .inl ⟨‹_›, (Except.ok.inj h).symm⟩
  · exact .inr (.inl ⟨‹_›, (Except.ok.inj h).symm⟩)
  · exact .inr (.inr (.inl ⟨‹_›, (Except.ok.inj h).symm⟩))
  · rename_i n hn
    split at h
    · cases h
    · rename_i hb
      split at h
      · cases h
      · rename_i x hx
        exact .inr (.inr (.inr ⟨n, hn, by simpa using hb, by rw [hx, Except.ok.inj h]⟩))

/-- A resolved access was 8 bytes wide (R58). -/
theorem BusAddr.resolve_ok {d : BusAddr} {a : WordAddr} (h : d.resolve = .ok a) :
    d = .word a 8 ∨ ∃ b : ByteAddr, d = .byte b 8 ∧ b.toNat % 8 = 0 ∧ a = BitVec.ofNat 12 (b.toNat / 8) := by
  cases d with
  | word a' size =>
    simp only [BusAddr.resolve] at h
    split at h
    · rename_i hs
      exact .inl (by rw [hs, Except.ok.inj h])
    · cases h
  | byte b size =>
    simp only [BusAddr.resolve] at h
    split at h
    · rename_i hs
      exact .inr ⟨b, by rw [hs.1], hs.2, (Except.ok.inj h).symm⟩
    · cases h

/-- Everything `MemWrite` can do when it does not fault (R56). -/
theorem memWrite_ok {a : WordAddr} {w : Word} (h : memWrite s a w = .ok t) :
    s.status.busy = false ∧
      ((regAt s.L a = some .cmd ∧ t = s.start w) ∨
        ∃ n, regAt s.L a = some (.data n) ∧ n.isResult = false ∧ t = s.setReg n w) := by
  unfold memWrite at h
  split at h
  · cases h
  · split at h
    · cases h
    · exact ⟨by simpa using ‹¬s.status.busy = true›, .inl ⟨‹_›, (Except.ok.inj h).symm⟩⟩
  · cases h
  · cases h
  · rename_i n hn
    split at h
    · cases h
    · split at h
      · cases h
      · exact ⟨by simpa using ‹¬s.status.busy = true›,
          .inr ⟨n, hn, by simpa using ‹¬n.isResult = true›, (Except.ok.inj h).symm⟩⟩

/-- Everything a write transaction can do when it answers next (R84). -/
theorem hostWrite_next {dst : BusAddr} {src : Source} (h : hostWrite dst src s = .next t) :
    ∃ w, s.host.valueOf src = some w ∧
      ((∃ f, busWrite s dst w = .error f ∧ t = s.raise f) ∨
        ∃ a s', dst.resolve = .ok a ∧ memWrite s a w = .ok s' ∧ t = s'.advance) := by
  unfold hostWrite at h
  split at h
  · cases h
  · rename_i w hw
    refine ⟨w, hw, ?_⟩
    split at h
    · exact .inl ⟨_, ‹_›, (Host.Outcome.next.inj h).symm⟩
    · rename_i s' hs
      unfold busWrite at hs
      split at hs
      · cases hs
      · exact .inr ⟨_, s', ‹_›, hs, (Host.Outcome.next.inj h).symm⟩

/-- Everything a read transaction can do (R84): fault, or move the host on and leave the engine alone (R60). -/
theorem hostRead_next {src : BusAddr} {mode : TraceMode} {dst : Option HostVar} (h : hostRead src mode dst s = .next t) :
    (∃ f, busRead s src = .error f ∧ t = s.raise f) ∨
      ∃ r w, busRead s src = .ok (r, w) ∧
        t = { s with
          host :=
            { s.host with
              pos := s.host.pos + 1
              vars := assignVar dst w s.host.vars
              trace := recordRead mode r w s.host.trace } } := by
  unfold hostRead at h
  split at h
  · exact .inl ⟨_, ‹_›, (Host.Outcome.next.inj h).symm⟩
  · exact .inr ⟨_, _, ‹_›, (Host.Outcome.next.inj h).symm⟩

theorem memRead_status : memRead s 0x001 = .ok s.status.word := rfl

/-- Bit 0 of STATUS is BUSY (R23). -/
theorem Status.word_bit0 (st : Status) : st.word.getLsbD 0 = st.busy := by
  simp only [Status.word, BitVec.getLsbD_append]
  simp

/-- One iteration of WAIT (R92). -/
theorem hostWait_eq : hostWait s = .next (if s.status.busy then s else s.advance) := by
  simp only [hostWait, memRead_status, Status.word_bit0]

/-- Everything a host turn can do when it answers next: nothing left to do, or one transaction (R86). -/
theorem hostStep_next (h : hostStep s = .next t) :
    (s.host.program[s.host.pos]? = none ∧ t = s) ∨
      ∃ op, s.host.program[s.host.pos]? = some op ∧ hostOp op s = .next t := by
  unfold hostStep at h
  split at h
  · exact .inl ⟨‹_›, (Host.Outcome.next.inj h).symm⟩
  · exact .inr ⟨_, ‹_›, h⟩

/-! ## The step -/

/-- Everything a step can do when it answers next: the reset input, a passed turn, an engine step or a host turn, each of
them on the state with the turn taken off the list (R20, R61, R183, R200). -/
theorem step_cases (h : step s = .next t) :
    let s' := s.withTurns s.sched.tail
    (s.sched.head? = some .reset ∧ t = s'.resetEngine) ∨
      (s.sched.head? ≠ some .reset ∧ s.fault = none ∧
        (t = s' ∨ (s.status.busy = true ∧ engineStep s' = .next t) ∨ hostStep s' = .next t)) := by
  have unfaulted : ∀ {turn : State → Host.Outcome State Fault Refusal} {s' : State},
      unlessFaulted turn s' = .next t → s'.fault = none ∧ turn s' = .next t := by
    intro turn s' h
    unfold unlessFaulted at h
    split at h
    · exact ⟨‹_›, h⟩
    · cases h
  unfold step transition at h
  split at h
  · rename_i hs
    obtain ⟨hf, h⟩ := unfaulted h
    refine .inr ⟨by simp [hs], hf, ?_⟩
    have e : s.withTurns s.sched.tail = s := by rw [hs, List.tail_nil, ← hs]; rfl
    rw [e]
    unfold freeTurn at h
    split at h
    · exact .inr (.inl ⟨‹_›, h⟩)
    · exact .inr (.inr h)
  · rename_i rest hs
    obtain ⟨hf, h⟩ := unfaulted h
    refine .inr ⟨by simp [hs], hf, ?_⟩
    simp only [hs, List.tail_cons]
    unfold engineTurn at h
    split at h
    · exact .inr (.inl ⟨‹_›, h⟩)
    · exact .inl (Host.Outcome.next.inj h).symm
  · rename_i rest hs
    obtain ⟨hf, h⟩ := unfaulted h
    refine .inr ⟨by simp [hs], hf, ?_⟩
    simp only [hs, List.tail_cons]
    exact .inr (.inr h)
  · rename_i rest hs
    refine .inl ⟨by simp [hs], ?_⟩
    simp only [hs, List.tail_cons]
    exact (Host.Outcome.next.inj h).symm

/-- Where the host moves next, a step of an unfaulted machine is the host's transaction with the turn taken off. -/
theorem step_of_hostMovesNext {n : Nat} (hm : s.hostMovesNext (n + 1)) (hf : s.fault = none) :
    step s = hostStep (s.withTurns s.sched.tail) := by
  obtain ⟨hh, hb⟩ := hm
  cases hs : s.sched with
  | nil =>
    have hb : s.status.busy = false := by simpa [hs] using hb
    have he : s.withTurns [] = s := by rw [← hs]; rfl
    simp [step, transition, hs, unlessFaulted, hf, freeTurn, hb, he]
  | cons x rest =>
    obtain rfl : x = .host := hh x (by simp [hs])
    simp [step, transition, hs, unlessFaulted, State.withTurns, hf]

/-- The steps after the first are the host's too, from any state with the turn taken off and BUSY as before. -/
theorem State.hostMovesNext_tail {n : Nat} (hm : s.hostMovesNext (n + 1)) (ht : t.sched = s.sched.tail)
    (hb : t.status.busy = s.status.busy) : t.hostMovesNext n := by
  obtain ⟨hh, hbusy⟩ := hm
  refine ⟨fun x hx => hh x ?_, ?_⟩
  · cases hs : s.sched with
    | nil => simp [ht, hs] at hx
    | cons y rest => simp_all
  · rw [hb, ht, List.length_tail]
    exact hbusy.imp_right fun h => by omega

end Sys2Proof.Machine
end

