-- ==== Sys2Proof/Laws/PerInstr.lean ====
section
/-! SUPPORT. Facts of every instruction as syntax, one lemma per constructor. -/

namespace Sys2Proof.Laws

/-- The command word has RSV zero, its OP in the OP field, and an OP of the opcode map (R75, R77). -/
def CommandWord.Statement (i : Instr) : Prop :=
  i.wellFormed = true ∧ rsvField (encode i) = 0 ∧ opField (encode i) = opcode i ∧
    1 ≤ (opcode i).toNat ∧ (opcode i).toNat ≤ 6

theorem CommandWord.norm : CommandWord.Statement .norm := by unfold CommandWord.Statement; decide

theorem CommandWord.recip21 : CommandWord.Statement .recip21 := by unfold CommandWord.Statement; decide

theorem CommandWord.div21 : CommandWord.Statement .div21 := by unfold CommandWord.Statement; decide

theorem CommandWord.recip32 : CommandWord.Statement .recip32 := by unfold CommandWord.Statement; decide

theorem CommandWord.div32 : CommandWord.Statement .div32 := by unfold CommandWord.Statement; decide

theorem CommandWord.divide : CommandWord.Statement .divide := by unfold CommandWord.Statement; decide

end Sys2Proof.Laws
end

