-- ==== Sys2Proof/Tests/Slice0.lean ====
section
/-! SUPPORT. Tests of the model against the vectors of 95_test_vectors.md and the words and tables of the rules, and for
every statement with hypotheses a named witness that they can be met. -/

namespace Sys2Proof.Tests

open Sys2Proof.Machine

/-! ## Helpers -/

/-- The outcome is a next state with the given property. -/
def nextWith (o : Host.Outcome State Fault Refusal) (p : State → Bool) : Bool :=
  match o with
  | .next t => p t
  | .fault _ => false
  | .refused _ => false

/-- The outcome is the given fault. -/
def faultWith (o : Host.Outcome State Fault Refusal) (f : Fault) : Bool :=
  match o with
  | .next _ => false
  | .fault g => decide (g = f)
  | .refused _ => false

/-- A machine with `L` limbs, dividend and divisor written. -/
def wideState (L : Nat) (u v : List Word) : State := { State.resetFor L with u := written u, v := written v }

/-- A machine with the scalar operands written. -/
def scalarState (x2 x1 x0 y1 y0 vr : Word) : State :=
  { State.resetFor 2 with
    x2 := .value x2, x1 := .value x1, x0 := .value x0, y1 := .value y1, y0 := .value y0, vr := .value vr }

/-- The largest limb. -/
def top : Word := 0xFFFFFFFFFFFFFFFF

/-! ## Encoding: the words of R77, and the illegal words of 95 section 6 (E2–E5) -/

theorem test_word_norm : decode 0x0000000000000001 = .command .norm := by decide

theorem test_word_recip21 : decode 0x0000000000000002 = .command .recip21 := by decide

theorem test_word_div21 : decode 0x0000000000000003 = .command .div21 := by decide

theorem test_word_recip32 : decode 0x0000000000000004 = .command .recip32 := by decide

theorem test_word_div32 : decode 0x0000000000000005 = .command .div32 := by decide

theorem test_word_divide : decode 0x0000000000000006 = .command .divide := by decide

theorem test_words_illegal :
    decode 0x0000000000000000 = .illegal (.noSuchCommand 0) ∧ decode 0x0000000000000010 = .illegal .reservedNotZero ∧
      decode 0x0000000000000016 = .illegal .reservedNotZero ∧ decode 0x0000000000000007 = .illegal (.noSuchCommand 7) ∧
      decode 0x8000000000000006 = .illegal .reservedNotZero := by decide

theorem test_table_word : decodeTableWord 64 6 = some .divide ∧ decodeTableWord 64 0x16 = none := by decide

/-! ## Well-formedness: each check refuses an ill-formed term -/

theorem test_limb_count_refused :
    limbCountWellFormed 0 = false ∧ limbCountWellFormed 256 = false ∧ limbCountWellFormed 255 = true := by decide

theorem test_every_instruction_well_formed : [Instr.norm, .recip21, .div21, .recip32, .div32, .divide].all Instr.wellFormed = true := by
  decide

/-- R21: U[2] is no register at L = 2. -/
theorem test_line_index_refused : hostProgramWellFormed 2 [.wr (.data (.limb .u 2)) (.imm 1)] = false := by decide

/-- R89: `A ∈ {U, V}` and `imm < B^L`. -/
theorem test_wrw_refused :
    hostProgramWellFormed 2 [.wrw .q 1] = false ∧ hostProgramWellFormed 1 [.wrw .u (2 ^ 64)] = false ∧
      hostProgramWellFormed 1 [.wrw .u (2 ^ 64 - 1)] = true := by decide

/-- R91: the destination of COPY is an RW register. -/
theorem test_copy_refused :
    hostProgramWellFormed 2 [.copy (.data (.scalar .rcp)) (.data (.scalar .vr))] = false ∧
      hostProgramWellFormed 2 [.copy .cmd (.data (.scalar .vr))] = false ∧
      hostProgramWellFormed 2 [.copy (.data (.scalar .vr)) (.data (.scalar .rcp))] = true := by decide

/-- R83: a variable holds a word the program read earlier; COPY's `$tmp` is the assembler's. -/
theorem test_variable_refused :
    hostProgramWellFormed 2 [.wr (.data (.scalar .vr)) (.var (.user 0))] = false ∧
      hostProgramWellFormed 2 [.rd (.data (.scalar .rcp)) (some (.tmp 0))] = false ∧
      hostProgramWellFormed 2 [.rd .status (some (.user 0)), .wr (.data (.scalar .vr)) (.var (.user 0))] = true := by
  decide

/-! ## NORM (95 section 5) -/

theorem test_norm_n3v :
    nextWith (exec .norm (wideState 2 [top, top] [3, 0])) (fun t =>
      t.shift == .value 62 && t.un == written [0xC000000000000000, 0xFFFFFFFFFFFFFFFF, 0x3FFFFFFFFFFFFFFF] &&
        t.vn == written [0xC000000000000000, 0]) = true := by decide

theorem test_norm_n6v :
    nextWith (exec .norm (wideState 3 [0x0123456789ABCDEF, 0xFEDCBA9876543210, 0x8000000000000001] [5, 0x00000000FFFFFFFF, 0]))
      (fun t => t.shift == .value 32 &&
        t.un == written [0x89ABCDEF00000000, 0x7654321001234567, 0x00000001FEDCBA98, 0x0000000080000000] &&
        t.vn == written [0x0000000500000000, 0xFFFFFFFF00000000, 0]) = true := by decide

/-! ## RECIP21 and DIV21 (95 section 3) -/

theorem test_recip21_a7 :
    nextWith (exec .recip21 (scalarState 0 0 0 0 0x8000000000003039 0)) (fun t => t.rcp == .value 0xFFFFFFFFFFFF3F1C) =
      true := by decide

theorem test_recip21_a9 : faultWith (exec .recip21 (scalarState 0 0 0 0 0x7FFFFFFFFFFFFFFF 0)) .precondition = true := by
  decide

theorem test_div21_b5 :
    nextWith (exec .div21 (scalarState 0 0x1234 0x5678 0 0x9E3779B97F4A7C15 0x9E3779B97F4A7C18)) (fun t =>
      t.qs == .value 0x1D74 && t.rs0 == .value 0x0612D486E231BBF4 && t.rs1 == .unwritten) = true := by decide

theorem test_div21_b9_b10 :
    faultWith (exec .div21 (scalarState 0 0x8000000000000000 0 0 0x8000000000000000 top)) .precondition = true ∧
      faultWith (exec .div21 (scalarState 0 0 5 0 0x8000000000000000 1)) .precondition = true := by decide

/-! ## RECIP32 and DIV32 (95 section 4) -/

theorem test_recip32_c7v :
    nextWith (exec .recip32 (scalarState 0 0 0 0x9E3779B97F4A7C15 0xF39CC0605CEDC834 0)) (fun t =>
      t.rcp == .value 0x9E3779B97F4A7C15) = true := by decide

theorem test_recip32_c5v :
    nextWith (exec .recip32 (scalarState 0 0 0 top top 0)) (fun t => t.rcp == .value 0) = true := by decide

theorem test_div32_e4v :
    nextWith (exec .div32 (scalarState 1 2 3 0x9E3779B97F4A7C15 0xF39CC0605CEDC834 0x9E3779B97F4A7C15)) (fun t =>
      t.qs == .value 1 && t.rs1 == .value 0x61C8864680B583EC && t.rs0 == .value 0x0C633F9FA31237CF) = true := by decide

theorem test_div32_e7v_e8v :
    faultWith (exec .div32 (scalarState 0x8000000000000000 0 0 0x8000000000000000 0 top)) .precondition = true ∧
      faultWith (exec .div32 (scalarState 0 0 5 0x8000000000000000 0 0)) .precondition = true := by decide

/-! ## DIVIDE (95 section 2: V1 = D1; section 6: E1) -/

theorem test_divide_v1 :
    nextWith (exec .divide (wideState 4 [5, 0, 4, 0] [3, 2, 0, 0])) (fun t =>
      t.q == written [0xFFFFFFFFFFFFFFFD, 1, 0, 0] && t.r == written [0xE, 0, 0, 0] && t.status.word == 0x2) = true := by
  decide

theorem test_divide_e1 :
    nextWith (exec .divide (wideState 2 [5, 0] [0, 0])) (fun t =>
      t.status.word == 0x16 && t.q == [.unwritten, .unwritten] && t.r == [.unwritten, .unwritten]) = true := by decide

/-- The reference driver on the add-back vectors D2 and D4 (95 section 2). -/
theorem test_driver_d2_d4 :
    driver 4 [0, 0, 0x8000000000000000, 2] [top, 0, 0x8000000000000000, 0] =
        some ([4, 0, 0, 0], [4, 0xFFFFFFFFFFFFFFFC, 0x7FFFFFFFFFFFFFFF, 0]) ∧
      driver 4 [9, 3, 7, 0x8000000000000000] [5, 7, 0x8000000000000000, 0] =
        some ([0xFFFFFFFFFFFFFFFF, 0, 0, 0], [0xE, 5, 0x8000000000000000, 0]) := by decide

/-! ## The window, the host and the step -/

/-- 95 section 6, E7, E8, E9, E10, E11. -/
theorem test_host_faults :
    memRead (State.resetFor 2) 0x020 = .error .unwrittenRead ∧
      memRead { scalarState 1 1 1 1 1 1 with status := Status.started, rcp := .value 3 } 0x023 = .error .hazardBusyRead ∧
      memRead { scalarState 1 1 7 1 1 1 with status := Status.started } 0x010 = .ok 7 ∧
      memWrite { scalarState 1 1 1 1 1 1 with status := Status.started } 0x010 1 = .error .hazardBusyWrite ∧
      memWrite (State.resetFor 2) 0x001 0 = .error .readOnlyWrite ∧
      memWrite (State.resetFor 2) 0x300 0 = .error .readOnlyWrite := by decide

/-- 95 section 6, E12 and E14. -/
theorem test_window_edges :
    memRead (State.resetFor 2) 0x102 = .error .badAddress ∧ memRead (State.resetFor 2) 0x503 = .error .badAddress ∧
      regAt 2 0x502 = some (.data (.limb .un 2)) ∧ memRead (State.resetFor 4) 0x002 = .ok 0x0000000000400004 := by decide

/-- R58. -/
theorem test_width : (BusAddr.byte 0x104 8).resolve = .error .badWidth ∧ (BusAddr.byte 0x108 8).resolve = .ok 0x021 ∧
    (BusAddr.word 0x021 4).resolve = .error .badWidth := by decide

/-- R94's transactions `W 000 0000000000000003` and `R 001`. -/
theorem test_bus_text :
    busWriteText (addrOf .cmd) (encode .div21) =
        ['W', ' ', '0', '0', '0', ' ', '0', '0', '0', '0', '0', '0', '0', '0', '0', '0', '0', '0', '0', '0', '0', '3'] ∧
      busReadText (addrOf .status) = ['R', ' ', '0', '0', '1'] := by decide

/-- The host's line `RUN RECIP21`, R93, as text. -/
theorem test_line_text : Line.text (.run .recip21) = ['R', 'U', 'N', ' ', 'R', 'E', 'C', 'I', 'P', '2', '1'] := by decide

/-- 95 section 6, E6: the first step after reset with a command placed runs that command, here on unwritten operands. -/
theorem test_step_from_reset :
    nextWith (step (State.reset.withFetchWord 64 2)) (fun t =>
      t.fault == some .unwrittenOperand && t.status.word == 0x1) = true := by decide

/-- 95 section 6, E4: an illegal word completes although no operand is written. -/
theorem test_step_illegal :
    nextWith (step (State.reset.withFetchWord 64 0x16)) (fun t => t.status.word == 0x26 && t.fault == none) = true := by
  decide

/-- A placed command on written operands runs in the next step (A8). -/
theorem test_step_recip21 :
    nextWith (step ((scalarState 0 0 0 0 0x9E3779B97F4A7C15 0).withFetchWord 64 2)) (fun t =>
      t.rcp == .value 0x9E3779B97F4A7C18 && t.status.word == 0x2) = true := by decide

/-! ## Witnesses: the hypotheses of every statement can be met, clause by clause -/

/-- The invariant as a check. -/
def invOk (s : State) : Bool :=
  decide (1 ≤ s.L) && decide (s.L ≤ 255) && [ArrayName.u, .v, .q, .r, .un, .vn].all (fun a => (s.array a).length == a.size s.L) &&
    s.status.legal && (s.pending.isSome == s.status.busy) &&
    (match s.shift with
     | .unwritten => true
     | .value x => decide (x.toNat ≤ 63))

theorem inv_of_invOk {s : State} (h : invOk s = true) : s.Inv := by
  simp only [invOk, Bool.and_eq_true, decide_eq_true_eq, List.all_cons, List.all_nil, beq_iff_eq] at h
  obtain ⟨⟨⟨⟨⟨h1, h2⟩, hu, hv, hq, hr, hun, hvn, -⟩, hst⟩, hp⟩, hsh⟩ := h
  refine ⟨⟨h1, h2⟩, fun a => ?_, hst, hp, fun x hx => ?_⟩
  · cases a <;> assumption
  · rw [hx] at hsh
    simpa using hsh

/-- Every operand written, with VR the 2-by-1 reciprocal of Y0: every command but DIV32 completes. -/
def fullState : State :=
  { scalarState 0 1 2 0x8000000000000000 0x8000000000000000 0xFFFFFFFFFFFFFFFF with
    u := written [5, 0], v := written [3, 2], rcp := .value 9, shift := .value 63 }

/-- `fullState` with a command pending. -/
def busyState (w : Word) : State := fullState.start w

/-- `fullState` with a host program at its first transaction. -/
def hostState (ops : List HostOp) : State := fullState.load ops

theorem witness_fullState : fullState.Inv := inv_of_invOk (by decide)

theorem witness_busyState : (busyState 6).Inv := inv_of_invOk (by decide)

/-- ResetMeetsTheInvariants: the ends of the range of L. -/
theorem witness_limb_bounds : (State.resetFor 1).Inv ∧ (State.resetFor 255).Inv :=
  ⟨inv_of_invOk (by decide +kernel), inv_of_invOk (by decide +kernel)⟩

/-- StepKeepsTheInvariant, ConfigIsConstant: a step from a state with the invariant answers next. -/
theorem witness_StepKeepsTheInvariant : (busyState 6).Inv ∧ nextWith (step (busyState 6)) (fun _ => true) = true :=
  ⟨witness_busyState, by decide⟩

/-- ResetActsAtEveryPoint, ResetKeepsTheHost: busy, faulted, and idle. -/
theorem witness_ResetActsAtEveryPoint :
    ((busyState 6).withTurns [.reset]).sched = [.reset] ∧
      ((fullState.raise .badWidth).withTurns [.reset, .host]).sched = [.reset, .host] := by decide

/-- StatusWordIsOneOfFive: each of the five words is met. -/
theorem witness_StatusWordIsOneOfFive :
    invOk fullState = true ∧ invOk (busyState 1) = true ∧ invOk (fullState.complete 0) = true ∧
      invOk (fullState.complete 1) = true ∧ invOk (fullState.complete 2) = true ∧
      (fullState.complete 2).status.word = 0x26 := by decide

/-- StatusProtocol, IllegalWordCompletesWithCause2: both values of BUSY, and each way a word is illegal. -/
theorem witness_StatusProtocol :
    fullState.status.busy = false ∧ (busyState 6).status.busy = true ∧ (busyState 0x10).pending = some 0x10 ∧
      (0x16 : Word).extractLsb' 4 60 ≠ 0 ∧ (0 : Word).extractLsb' 0 4 = 0 ∧ 7 ≤ ((7 : Word).extractLsb' 0 4).toNat := by
  decide

/-- ErrorStaysUntilTheNextStart: an error, and a host turn that starts a command, so STATUS changes. -/
theorem witness_ErrorStaysUntilTheNextStart :
    let s := ((fullState.complete 1).load [.write (.word 0x000 8) (.imm 6)]).withTurns [.host]
    invOk s = true ∧ s.status.err = true ∧ nextWith (step s) (fun t => t.status != s.status) = true := by decide

/-- WindowMap, AddressesRoundTrip: the edges of the banks at L = 1 and L = 255. -/
theorem witness_WindowMap :
    regAt 1 0x100 = some (.data (.limb .u 0)) ∧ regAt 1 0x101 = none ∧ regAt 1 0x501 = some (.data (.limb .un 1)) ∧
      regAt 255 0x5FF = some (.data (.limb .un 255)) ∧ regAt 255 0x6FE = some (.data (.limb .vn 254)) ∧
      regAt 255 0x6FF = none ∧ regAt 255 0xFFF = none ∧ regAt 255 0x016 = none ∧ regAt 255 0x01F = none := by decide

/-- HostReadRule, BusyReadHazard: each clause at a register. -/
theorem witness_HostReadRule :
    regAt 2 0x003 = none ∧ regAt 2 0x024 = some (.data (.scalar .shift)) ∧ (RegName.scalar .shift).isResult = true ∧
      (busyState 6).status.busy = true ∧ fullState.reg (.scalar .shift) = .value 63 ∧
      fullState.reg (.scalar .qs) = .unwritten ∧ (busyState 6).reg (.limb .u 1) = .value 0 ∧
      (RegName.limb .u 1).legal 2 = true ∧
      nextWith (hostRead (.word 0x024 8) .single none fullState) (fun _ => true) = true := by decide

/-- HostWriteRule, BusyWriteHazard, OperandWriteReadsBack: each clause at a register. -/
theorem witness_HostWriteRule :
    invOk fullState = true ∧ invOk (busyState 6) = true ∧ regAt 2 0x800 = none ∧
      regAt 2 0x401 = some (.data (.limb .r 1)) ∧ regAt 2 0x201 = some (.data (.limb .v 1)) ∧
      (RegName.limb .v 1).isResult = false ∧ memWrite fullState 0x201 7 = .ok (fullState.setReg (.limb .v 1) 7) := by
  decide

/-- OnlyWholeWordAccesses: sizes and alignments at their edges. -/
theorem witness_OnlyWholeWordAccesses :
    (BusAddr.word 0x000 7).resolve = .error .badWidth ∧ (BusAddr.byte 0x001 8).resolve = .error .badWidth ∧
      (BusAddr.byte 0x7FF8 8).resolve = .ok 0xFFF := by decide

/-- StepRunsTheDecodedCommand: with and without a turn; the rule completes and faults. -/
theorem witness_StepRunsTheDecodedCommand :
    (busyState 3).fault = none ∧ (busyState 3).status.busy = true ∧ (busyState 3).pending = some 3 ∧
      decode 3 = .command .div21 ∧ (busyState 3).sched = [] ∧ nextWith (exec .div21 (busyState 3)) (fun _ => true) = true ∧
      faultWith (exec .div32 (State.resetFor 2)) .unwrittenOperand = true := by decide

/-- EngineMovesOnlyWhenBusy. -/
theorem witness_EngineMovesOnlyWhenBusy :
    (fullState.withTurns [.engine]).fault = none ∧ (fullState.withTurns [.engine]).status.busy = false := by decide

/-- FaultedStateIsStuck: a faulted state, with and without reset ahead, and a step that faults. -/
theorem witness_FaultedStateIsStuck :
    (fullState.raise .precondition).fault = some .precondition ∧
      nextWith (step ((fullState.raise .precondition).withTurns [.reset])) (fun t => t.fault == none) = true ∧
      nextWith (step (hostState [.read (.word 0x800 8) .single none])) (fun t => t.fault == some .badAddress) = true := by
  decide

/-- NormRule, DivideRule: written operands, a zero divisor, an unwritten limb. -/
theorem witness_NormRule :
    (wideState 2 [1, 2] [0, 0]).u = [1, 2].map RegVal.value ∧ (wideState 2 [1, 2] [0, 0]).v = [0, 0].map RegVal.value ∧
      val [0, 0] = 0 ∧ val [0, 1] ≠ 0 ∧ ([0, 1] : List Word).length = (wideState 2 [1, 2] [0, 1]).L ∧
      invOk (wideState 2 [1, 2] [0, 1]) = true ∧ invOk (State.resetFor 2) = true ∧
      (State.resetFor 2).reg (.limb .u 1) = .unwritten := by decide

/-- Recip21Rule, Recip32Rule: the smallest and largest normalized limb and the limb below. -/
theorem witness_Recip21Rule :
    fullState.y0 = .value 0x8000000000000000 ∧ 2 ^ 63 ≤ (0x8000000000000000 : Word).toNat ∧
      (0x7FFFFFFFFFFFFFFF : Word).toNat < 2 ^ 63 ∧ 2 ^ 63 ≤ top.toNat ∧ fullState.y1 = .value 0x8000000000000000 := by
  decide

/-- Div21Rule: the preconditions at their edge `u1 = d − 1`. -/
theorem witness_Div21Rule :
    let d : Word := 0x8000000000000000
    let u1 : Word := 0x7FFFFFFFFFFFFFFF
    2 ^ 63 ≤ d.toNat ∧ u1.toNat < d.toNat ∧ top.toNat = (B ^ 2 - 1) / d.toNat - B ∧
      (scalarState 0 u1 0 0 d top).x1 = .value u1 ∧ (scalarState 0 u1 0 0 d top).vr = .value top ∧
      (State.resetFor 2).x1 = .unwritten := by decide

/-- Div32Rule: the preconditions at their edge `(u2:u1) = D − 1`, D = B² − 1 with v = 0. -/
theorem witness_Div32Rule :
    let D := top.toNat * B + top.toNat
    2 ^ 63 ≤ top.toNat ∧ top.toNat * B + (0xFFFFFFFFFFFFFFFE : Word).toNat < D ∧ (0 : Word).toNat = (B ^ 3 - 1) / D - B ∧
      (scalarState top 0xFFFFFFFFFFFFFFFE top top top 0).x2 = .value top := by decide

/-- UnwrittenOperandFaults: an unwritten operand of each command. -/
theorem witness_UnwrittenOperandFaults :
    [Instr.norm, .recip21, .div21, .recip32, .div32, .divide].all (fun i =>
      (operandRegs 2 i).any fun n => decide ((State.resetFor 2).reg n = .unwritten)) = true := by decide

/-- LegalCommandsComplete, CommandWritesExactlyItsResults, PreconditionTable, OnlyDivideReportsAnError: for each command a state on which its operands
are written and its precondition holds. -/
theorem witness_LegalCommandsComplete_norm : fullState.operandsWritten .norm ∧ ¬ fullState.violates .norm :=
  ⟨by unfold State.operandsWritten; decide, show ¬ fullState.wide .v = 0 by decide⟩

theorem witness_LegalCommandsComplete_recip21 : fullState.operandsWritten .recip21 ∧ ¬ fullState.violates .recip21 :=
  ⟨by unfold State.operandsWritten; decide, show ¬ fullState.num .y0 < 2 ^ 63 by decide⟩

theorem witness_LegalCommandsComplete_div21 : fullState.operandsWritten .div21 ∧ ¬ fullState.violates .div21 :=
  ⟨by unfold State.operandsWritten; decide,
    show ¬ (fullState.num .y0 < 2 ^ 63 ∨ fullState.num .y0 ≤ fullState.num .x1 ∨
      fullState.num .vr ≠ (B ^ 2 - 1) / fullState.num .y0 - B) by decide⟩

theorem witness_LegalCommandsComplete_recip32 : fullState.operandsWritten .recip32 ∧ ¬ fullState.violates .recip32 :=
  ⟨by unfold State.operandsWritten; decide, show ¬ fullState.num .y1 < 2 ^ 63 by decide⟩

/-- DIV32 needs its own reciprocal in VR: D = (2^63 : 0). -/
def div32State : State := scalarState 0 1 2 0x8000000000000000 0 0xFFFFFFFFFFFFFFFF

theorem witness_LegalCommandsComplete_div32 :
    div32State.Inv ∧ div32State.operandsWritten .div32 ∧ ¬ div32State.violates .div32 :=
  ⟨inv_of_invOk (by decide), by unfold State.operandsWritten; decide,
    show ¬ (div32State.num .y1 < 2 ^ 63 ∨
      div32State.num .y1 * B + div32State.num .y0 ≤ div32State.num .x2 * B + div32State.num .x1 ∨
      div32State.num .vr ≠ (B ^ 3 - 1) / (div32State.num .y1 * B + div32State.num .y0) - B) by decide⟩

theorem witness_LegalCommandsComplete_divide : fullState.operandsWritten .divide ∧ ¬ fullState.violates .divide :=
  ⟨by unfold State.operandsWritten; decide, fun h => h⟩

/-- PreconditionTable: a violation with the command pending. -/
theorem witness_PreconditionTable :
    let s := (scalarState 0 0 5 0 0x7FFFFFFFFFFFFFFF 1).start 2
    invOk s = true ∧ s.pending = some (encode .recip21) ∧ s.num .y0 < 2 ^ 63 ∧
      (operandRegs s.L .recip21).all (fun n => decide (s.reg n ≠ .unwritten)) = true := by decide

/-- CommandDependsOnlyOnItsOperands: two machines that differ in a register RECIP21 does not read. -/
theorem witness_CommandDependsOnlyOnItsOperands :
    invOk fullState = true ∧ invOk (fullState.setReg (.scalar .x2) 77) = true ∧
      (operandRegs 2 .recip21).all (fun n => decide (fullState.reg n = (fullState.setReg (.scalar .x2) 77).reg n)) = true ∧
      nextWith (exec .recip21 fullState) (fun _ => true) = true := by decide

/-- OnlyHostWritesChangeOperands: a host turn that changes X0. -/
theorem witness_OnlyHostWritesChangeOperands :
    let s := hostState [.write (.word 0x010 8) (.imm 99)]
    invOk s = true ∧ nextWith (step s) (fun t => t.reg (.scalar .x0) != s.reg (.scalar .x0)) = true := by decide

/-- OnlyCommandsChangeResults: an engine step that changes Q[0]. -/
theorem witness_OnlyCommandsChangeResults :
    nextWith (step (busyState 6)) (fun t => t.reg (.limb .q 0) != (busyState 6).reg (.limb .q 0)) = true := by decide

/-- DivideProperties, NormalizeProperties, NormalizeDatapathIsExact, ReferenceDriverIsExact: operands of each kind. -/
theorem witness_DivideProperties :
    val [5, 0] ≠ 0 ∧ val [1, 0] = 1 ∧ val [4, 0] < val [5, 0] ∧ ([5, 0] : List Word).length = (wideState 2 [4, 0] [5, 0]).L ∧
      nextWith (exec .divide (wideState 2 [4, 0] [5, 0])) (fun _ => true) = true := by decide

/-- Recip21Properties, Recip32Properties, Recip32DatapathIsExact: the ends of the range. -/
theorem witness_Recip21Properties :
    2 ^ 63 ≤ B - 1 ∧ B - 1 < B ∧ 2 ^ 63 ≤ 2 ^ 63 ∧ 2 ^ 63 ≤ (0x8000000000000000 : Word).toNat := by decide

/-- Div21DatapathIsExact. -/
theorem witness_Div21DatapathIsExact :
    2 ^ 63 ≤ (0x9E3779B97F4A7C15 : Word).toNat ∧ (0x1234 : Word).toNat < (0x9E3779B97F4A7C15 : Word).toNat ∧
      (0x9E3779B97F4A7C18 : Word).toNat = recip21 (0x9E3779B97F4A7C15 : Word).toNat := by decide

/-- Div32DatapathIsExact. -/
theorem witness_Div32DatapathIsExact :
    2 ^ 63 ≤ (0x9E3779B97F4A7C15 : Word).toNat ∧
      (1 : Word).toNat * B + (2 : Word).toNat < pair 0x9E3779B97F4A7C15 0xF39CC0605CEDC834 ∧
      (0x9E3779B97F4A7C15 : Word).toNat = recip32 (pair 0x9E3779B97F4A7C15 0xF39CC0605CEDC834) := by decide

/-- AlgorithmDDigitIsExact: the window of vector D2, whose estimate is one too high. -/
theorem witness_AlgorithmDDigitIsExact :
    let dv : List Word := [top, 0, 0x8000000000000000]
    let w : List Word := [0, 0, 0x8000000000000000, 2]
    dv.length = 3 ∧ 2 ^ 63 ≤ (dv.getD 2 0).toNat ∧ 0 + 3 < w.length ∧ val (window w 0 3) < val dv * B ∧
      estimateDigit (pair (dv.getD 2 0) (dv.getD 1 0)) (w.getD 3 0) (w.getD 2 0) (w.getD 1 0) = 5 ∧
      (manyLimbDigit (pair (dv.getD 2 0) (dv.getD 1 0)) (val dv) 3 0 w).1 = 4 := by decide

/-- AlgorithmDDigitIsExact: a limb below the window and one above it. -/
theorem witness_AlgorithmDDigit_outside :
    let dv : List Word := [top, 0, 0x8000000000000000]
    let w : List Word := [7, 0, 0, 0x8000000000000000, 2, 9]
    1 + 3 < w.length ∧ val (window w 1 3) < val dv * B ∧
      (manyLimbDigit (pair (dv.getD 2 0) (dv.getD 1 0)) (val dv) 3 1 w).2.getD 0 0 = 7 ∧
      (manyLimbDigit (pair (dv.getD 2 0) (dv.getD 1 0)) (val dv) 3 1 w).2.getD 5 0 = 9 := by decide

/-- WaitRepeatsWhileBusy: both cases. -/
theorem witness_WaitRepeatsWhileBusy :
    ((hostState [.wait]).withTurns [.host]).nextOp = some .wait ∧
      (((busyState 6).load [.wait]).withTurns [.host]).status.busy = true := by decide

/-- ReadLineEntersTheTrace. -/
theorem witness_ReadLineEntersTheTrace :
    let s := (hostState [.read (.word 0x013 8) .single (some (.user 0))]).withTurns [.host]
    s.fault = none ∧ s.nextOp = some (.read (.word 0x013 8) .single (some (.user 0))) ∧
      regAt s.L 0x013 = some (.data (.scalar .y0)) ∧ memRead s 0x013 = .ok 0x8000000000000000 := by decide

/-- ForbiddenAccessFaults: a write and a read. -/
theorem witness_ForbiddenAccessFaults :
    let s := (hostState [.write (.word 0x020 8) (.imm 1)]).withTurns [.host]
    s.fault = none ∧ s.nextOp = some (.write (.word 0x020 8) (.imm 1)) ∧ s.host.valueOf (.imm 1) = some 1 ∧
      busWrite s (.word 0x020 8) 1 = .error .readOnlyWrite ∧ busRead s (.word 0x020 8) = .error .unwrittenRead := by
  decide

/-- RdwRecordsTheWholeValue, WrwWritesTheWholeValue: a program at the line. -/
theorem witness_RdwRecordsTheWholeValue :
    let s := hostState (expandLine 2 0 (.rdw .u))
    let s' := hostState (expandLine 2 0 (.wrw .v (2 ^ 128 - 1)))
    s.array .u = [5, 0].map RegVal.value ∧ s.host.program.drop s.host.pos = expandLine s.L 0 (.rdw .u) ++ [] ∧
      2 ^ 128 - 1 < B ^ s'.L ∧ s'.host.program.drop s'.host.pos = expandLine s'.L 0 (.wrw .v (2 ^ 128 - 1)) ++ [] := by
  decide

/-- RdwRecordsTheWholeValue, WrwWritesTheWholeValue, CopyMovesTheValue: U read while busy, on the host's turns, and an idle
machine whose list of turns is shorter than its line. -/
theorem witness_RdwRecordsTheWholeValue_turns :
    let s := ((busyState 6).load (expandLine 2 0 (.rdw .u))).withTurns [.host, .host, .engine]
    let s' := (hostState (expandLine 2 0 (.wrw .v 1))).withTurns [.host]
    s.hostMovesNext 2 ∧ s.status.busy = true ∧ ArrayName.u.isResult = false ∧ s'.hostMovesNext 2 ∧
      nextWith (runSteps 2 s) (fun t => t.host.trace == [.wide .u 5] && t.status.busy) = true := by
  unfold State.hostMovesNext
  decide

/-- RunLineCompletes: the engine's turn passes, the host writes CMD, WAIT reads twice while busy, the engine moves, and WAIT
reads once more. -/
theorem witness_RunLineCompletes_turns :
    let s := (hostState (expandLine 2 0 (.run .divide))).withTurns [.engine, .host, .host, .host, .engine, .host]
    Turn.reset ∉ s.sched ∧ s.fault = none ∧ s.status.busy = false ∧ nextWith (exec .divide s) (fun _ => true) = true ∧
      nextWith (runSteps 4 s) (fun t => t.status.busy && t.host.pos == 1) = true ∧
      nextWith (runSteps 6 s) (fun t => t.status.word == 0x2 && t.host.pos == 2) = true := by decide

/-- CopyMovesTheValue, RunLineCompletes: a program at the line. -/
theorem witness_CopyMovesTheValue :
    let s := hostState (expandLine 2 0 (.copy (.data (.scalar .vr)) (.data (.scalar .rcp))))
    let s' := hostState (expandLine 2 0 (.run .divide))
    lineOk 2 (.copy (.data (.scalar .vr)) (.data (.scalar .rcp))) = true ∧
      memRead s (addrOf (.data (.scalar .rcp))) = .ok 9 ∧ s'.status.busy = false ∧ s'.sched = [] ∧
      nextWith (exec .divide s') (fun _ => true) = true ∧
      s'.host.program.drop s'.host.pos = expandLine s'.L 0 (.run .divide) ++ [] := by decide

/-- StartedCommandCompletes: busy with a host turn ahead. -/
theorem witness_StartedCommandCompletes :
    let s := ((busyState 6).load [.wait]).withTurns [.host, .engine]
    s.Inv ∧ s.HostInv ∧ s.fault = none ∧ s.status.busy = true ∧ Turn.reset ∉ s.sched :=
  ⟨inv_of_invOk (by decide), by unfold State.HostInv; decide, by decide, by decide, by decide⟩

/-- AssembledProgramsAreNeverRefused: an accepted program with a variable. -/
theorem witness_AssembledProgramsAreNeverRefused :
    (assemble 2 [.rd .status (some (.user 0)), .wr (.data (.scalar .x0)) (.var (.user 0))]).isSome = true := by decide

/-- FinalStatesStay: a final state. -/
theorem witness_FinalStatesStay : fullState.final = true ∧ fullState.sched = [] := by decide

end Sys2Proof.Tests
end

section
/-! PROOFS. Register contents after the writes of a command and after reset (R17, R28–R33, R41). -/

namespace Sys2Proof.Machine

variable (s : State)

@[simp] theorem mem_limbRegs {a : ArrayName} {k : Nat} {n : RegName} :
    n ∈ limbRegs a k ↔ ∃ i < k, n = .limb a i := by
  simp [limbRegs, eq_comm]

/-- Replacing an array by one of the same length changes no register outside it. -/
theorem State.setArray_reg_other {a : ArrayName} {xs : List RegVal} {n : RegName}
    (hlen : xs.length = (s.array a).length) (hn : n ∉ limbRegs a xs.length) : (s.setArray a xs).reg n = s.reg n := by
  cases n with
  | scalar m => simp [State.reg]
  | limb b i =>
    by_cases hb : b = a
    · subst hb
      have hi : xs.length ≤ i := by simpa using hn
      simp [State.reg, List.getD_eq_getElem?_getD, List.getElem?_eq_none hi, List.getElem?_eq_none (hlen ▸ hi)]
    · simp [State.reg, s.setArray_array_other _ hb]

/-- Every limb of an array holding a written limb list is written. -/
theorem State.setArray_written_reg_ne_unwritten {a : ArrayName} {ws : List Word} {n : RegName}
    (hn : n ∈ limbRegs a ws.length) : (s.setArray a (written ws)).reg n ≠ .unwritten := by
  obtain ⟨i, hi, rfl⟩ := mem_limbRegs.1 hn
  simp [State.reg, written, List.getD_eq_getElem?_getD, hi]

@[simp] theorem State.resetFor_reg (L : Nat) (n : RegName) : (State.resetFor L).reg n = .unwritten := by
  cases n with
  | scalar m => simp [State.reg]
  | limb a i => simp [State.reg]

end Sys2Proof.Machine
end

section
/-! PROOFS. The register writes of a command, said once: which registers they name, and what they leave alone (R39, R79). -/

namespace Sys2Proof.Machine

/-- `RegWrites s ns t`: `t` is `s` after writing values into the registers `ns`, scalars one by one and arrays whole. -/
inductive RegWrites (s : State) : List RegName → State → Prop where
  | refl : RegWrites s [] s
  | scalar {ns : List RegName} {t : State} (m : ScalarName) (w : Word) (ht : RegWrites s ns t) :
      RegWrites s (ns ++ [.scalar m]) (t.setReg (.scalar m) w)
  | array {ns : List RegName} {t : State} (a : ArrayName) (ws : List Word) (hws : ws.length = a.size s.L)
      (ht : RegWrites s ns t) : RegWrites s (ns ++ limbRegs a (a.size s.L)) (t.setArray a (written ws))

section
variable {s t : State} {ns : List RegName}

/-- Register writes leave the limb count, the fault, the host and the turns alone. -/
theorem RegWrites.frame (h : RegWrites s ns t) :
    t.L = s.L ∧ t.fault = s.fault ∧ t.host = s.host ∧ t.sched = s.sched := by
  induction h with
  | refl => exact ⟨rfl, rfl, rfl, rfl⟩
  | scalar m w _ ih => simpa using ih
  | array a ws _ _ ih => simpa using ih

variable (hsize : ∀ a : ArrayName, (s.array a).length = a.size s.L)
include hsize

/-- Register writes keep the array sizes of R28–R33. -/
theorem RegWrites.array_length (h : RegWrites s ns t) (a : ArrayName) : (t.array a).length = a.size s.L := by
  induction h with
  | refl => exact hsize a
  | scalar m w _ ih => simpa using ih
  | array b ws hws _ ih =>
    by_cases hb : a = b
    · subst hb; simpa using hws
    · simpa [State.setArray_array_other _ _ hb] using ih

/-- One array write, seen from the registers it does not name. -/
theorem RegWrites.setArray_reg_other (h : RegWrites s ns t) {a : ArrayName} {ws : List Word} {n : RegName}
    (hws : ws.length = a.size s.L) (hn : n ∉ limbRegs a (a.size s.L)) :
    (t.setArray a (written ws)).reg n = t.reg n := by
  refine t.setArray_reg_other ?_ ?_
  · rw [length_written, hws, h.array_length hsize]
  · rwa [length_written, hws]

/-- A register the writes do not name keeps its value, or stays unwritten (R39). -/
theorem RegWrites.reg_other (h : RegWrites s ns t) {n : RegName} (hn : n ∉ ns) : t.reg n = s.reg n := by
  induction h with
  | refl => rfl
  | scalar m w _ ih =>
    obtain ⟨hns, hm⟩ := not_or.1 (mt List.mem_append.2 hn)
    rw [State.setReg_reg_other _ w (by simpa using hm), ih hns]
  | array a ws hws ht ih =>
    obtain ⟨hns, ha⟩ := not_or.1 (mt List.mem_append.2 hn)
    rw [ht.setArray_reg_other hsize hws ha, ih hns]

/-- A register the writes name is written after them: a later write of the list does not undo an earlier one. -/
theorem RegWrites.reg_ne_unwritten (h : RegWrites s ns t) {n : RegName} (hn : n ∈ ns) : t.reg n ≠ .unwritten := by
  induction h with
  | refl => cases hn
  | @scalar ns t m w _ ih =>
    by_cases hm : n = .scalar m
    · subst hm
      simp [t.setReg_reg_same w (n := .scalar m) nofun]
    · rw [t.setReg_reg_other w hm]
      exact ih ((List.mem_append.1 hn).resolve_right (by simpa using hm))
  | @array ns t a ws hws ht ih =>
    by_cases ha : n ∈ limbRegs a (a.size s.L)
    · exact t.setArray_written_reg_ne_unwritten (hws ▸ ha)
    · rw [ht.setArray_reg_other hsize hws ha]
      exact ih ((List.mem_append.1 hn).resolve_right ha)

end

/-- Everything a command can do when it completes (R79, R171): write its result registers and report `NONE`, or, for
DIVIDE by zero, report `DIV_BY_ZERO` and write nothing. -/
theorem exec_next {s t : State} {i : Instr} (h : exec i s = .next t) :
    (∃ t', RegWrites s (resultRegs s.L i) t' ∧ t = t'.complete causeNone) ∨
      (i = .divide ∧ t = s.complete causeDivByZero) := by
  cases i with
  | norm =>
    obtain ⟨o, -, -, rfl⟩ := execNorm_next h
    exact .inl ⟨_, ((RegWrites.refl.scalar .shift _).array .un _ (length_limbs _ _)).array .vn _ (length_limbs _ _), rfl⟩
  | recip21 =>
    obtain ⟨d, -, -, rfl⟩ := execRecip21_next h
    exact .inl ⟨_, RegWrites.refl.scalar .rcp _, rfl⟩
  | div21 =>
    obtain ⟨o, -, -, rfl⟩ := execDiv21_next h
    exact .inl ⟨_, (RegWrites.refl.scalar .qs _).scalar .rs0 _, rfl⟩
  | recip32 =>
    obtain ⟨o, -, -, rfl⟩ := execRecip32_next h
    exact .inl ⟨_, RegWrites.refl.scalar .rcp _, rfl⟩
  | div32 =>
    obtain ⟨o, -, -, rfl⟩ := execDiv32_next h
    exact .inl ⟨_, ((RegWrites.refl.scalar .qs _).scalar .rs0 _).scalar .rs1 _, rfl⟩
  | divide =>
    obtain ⟨o, -, ⟨-, rfl⟩ | ⟨-, rfl⟩⟩ := execDivide_next h
    · exact .inr ⟨rfl, rfl⟩
    · exact .inl ⟨_, (RegWrites.refl.array .q _ (length_limbs _ _)).array .r _ (length_limbs _ _), rfl⟩

/-- A completion empties the latch and leaves the limb count, the fault, the host and the turns alone (R24). -/
theorem exec_next_frame {s t : State} {i : Instr} (h : exec i s = .next t) :
    t.pending = none ∧ t.L = s.L ∧ t.fault = s.fault ∧ t.host = s.host ∧ t.sched = s.sched := by
  obtain ⟨t', hw, rfl⟩ | ⟨-, rfl⟩ := exec_next h
  · exact ⟨rfl, hw.frame⟩
  · exact ⟨rfl, rfl, rfl, rfl, rfl⟩

/-- Settles O34, by the two ways a command completes (`exec_next`). -/
theorem commandWritesExactlyItsResults : Obligations.CommandWritesExactlyItsResults := by
  unfold Obligations.CommandWritesExactlyItsResults
  intro s t i hinv h
  have hframe := exec_next_frame h
  obtain ⟨t', hw, rfl⟩ | ⟨-, rfl⟩ := exec_next h
  · refine ⟨fun n hn => ?_, fun _ n hn => ?_, fun hc => absurd rfl hc, hframe⟩
    · rw [State.complete_reg, hw.reg_other hinv.size hn]
    · rw [State.complete_reg]
      exact hw.reg_ne_unwritten hinv.size hn
  · have herr : (s.complete causeDivByZero).status.cause ≠ 0 := by simp [Status.completed, causeDivByZero]
    exact ⟨fun n _ => s.complete_reg _ n, fun hc => absurd hc herr, fun _ n => s.complete_reg _ n, hframe⟩

end Sys2Proof.Machine
end

section
/-! PROOFS. CONFIG and the limb count it holds (R25, R40), and what reset leaves (R41). -/

namespace Sys2Proof.Machine

theorem memRead_config (s : State) : memRead s 0x002 = .ok (configWord s.L) := rfl

theorem memWrite_config (s : State) (w : Word) : memWrite s 0x002 w = .error .readOnlyWrite := rfl

/-- The two fields of CONFIG do not overlap (R25). -/
theorem toNat_configWord {L : Nat} (h : L < 2 ^ 16) : (configWord L).toNat = 64 * 2 ^ 16 + L := by
  have hL : L % 2 ^ 64 = L := Nat.mod_eq_of_lt (by omega)
  have hor : 64 <<< 16 ||| L = 64 * 2 ^ 16 + L := by rw [← Nat.shiftLeft_add_eq_or_of_lt h, Nat.shiftLeft_eq]
  rw [configWord, BitVec.toNat_or, BitVec.toNat_shiftLeft, BitVec.toNat_ofNat, BitVec.toNat_ofNat, hL]
  exact hor

/-- A field of CONFIG, as a number. -/
theorem toNat_extractLsb'_configWord {L : Nat} (h : L < 2 ^ 16) (start len : Nat) :
    ((configWord L).extractLsb' start len).toNat = (64 * 2 ^ 16 + L) / 2 ^ start % 2 ^ len := by
  rw [BitVec.extractLsb'_toNat, toNat_configWord h, Nat.shiftRight_eq_div_pow]

variable {s t : State}

theorem engineStep_L (h : engineStep s = .next t) : t.L = s.L := by
  obtain ⟨w, -, ⟨why, -, rfl⟩ | ⟨i, -, he⟩ | ⟨i, f, -, -, rfl⟩⟩ := engineStep_next h
  · rfl
  · obtain ⟨-, hL, -⟩ := exec_next_frame he
    exact hL
  · rfl

theorem memWrite_L {a : WordAddr} {w : Word} (h : memWrite s a w = .ok t) : t.L = s.L := by
  obtain ⟨-, ⟨-, rfl⟩ | ⟨n, -, -, rfl⟩⟩ := memWrite_ok h
  · rfl
  · exact s.setReg_L n w

theorem hostOp_L {op : HostOp} (h : hostOp op s = .next t) : t.L = s.L := by
  cases op with
  | write dst src =>
    obtain ⟨w, -, ⟨f, -, rfl⟩ | ⟨a, s', -, hw, rfl⟩⟩ := hostWrite_next h
    · rfl
    · exact (State.advance_L s').trans (memWrite_L hw)
  | read src mode dst =>
    obtain ⟨f, -, rfl⟩ | ⟨r, w, -, rfl⟩ := hostRead_next h
    · rfl
    · rfl
  | wait =>
    obtain rfl := Host.Outcome.next.inj (hostWait_eq.symm.trans h)
    split <;> rfl

theorem hostStep_L (h : hostStep s = .next t) : t.L = s.L := by
  obtain ⟨-, rfl⟩ | ⟨op, -, hop⟩ := hostStep_next h
  · rfl
  · exact hostOp_L hop

/-- The limb count is a constant of the machine (R40). -/
theorem step_L (h : step s = .next t) : t.L = s.L := by
  obtain ⟨-, rfl⟩ | ⟨-, -, rfl | ⟨-, he⟩ | hh⟩ := step_cases h
  · rfl
  · rfl
  · exact (engineStep_L he).trans (s.withTurns_L _)
  · exact (hostStep_L hh).trans (s.withTurns_L _)

/-- Settles O9: the word by its numeric value, and its constancy by that of the limb count. -/
theorem configIsConstant : Obligations.ConfigIsConstant := by
  unfold Obligations.ConfigIsConstant
  refine ⟨fun s hinv => ⟨configWord s.L, memRead_config s, ?_⟩, memWrite_config, fun s t h => ?_⟩
  · obtain ⟨-, hL⟩ : 1 ≤ s.L ∧ s.L ≤ 255 := hinv.limbCount
    have hfield := toNat_extractLsb'_configWord (L := s.L) (by omega)
    refine ⟨?_, BitVec.eq_of_toNat_eq ?_, BitVec.eq_of_toNat_eq ?_, toNat_configWord (by omega)⟩
    · rw [hfield]
      omega
    · rw [hfield]
      change _ = 64
      omega
    · rw [hfield]
      change _ = 0
      omega
  · rw [memRead_config, memRead_config, step_L h]

/-- STATUS reads 0 after reset (R23, R41). -/
theorem resetFor_status_word (L : Nat) : (State.resetFor L).status.word = 0 :=
  show (⟨false, false, false, 0⟩ : Status).word = 0 by decide

/-- Settles O1: each clause is the reset value of its field (R41). -/
theorem resetLeavesTheStatedValues : Obligations.ResetLeavesTheStatedValues := by
  unfold Obligations.ResetLeavesTheStatedValues
  exact fun L => ⟨rfl, rfl, resetFor_status_word L, rfl, memRead_config _, rfl, State.resetFor_reg L, rfl⟩

end Sys2Proof.Machine
end

section
/-! PROOFS. The window map (R21, R51): an address names a register exactly when it is the register's address. -/

namespace Sys2Proof.Machine

variable {L i k n : Nat} {a : WordAddr} {r : WindowReg} {m : ScalarName} {b : ArrayName}

theorem scalarAt_addr (m : ScalarName) : scalarAt m.addr = some m := by cases m <;> rfl

theorem scalarAt_eq_some (h : scalarAt n = some m) : m.addr = n := by
  unfold scalarAt at h
  split at h <;> cases h <;> rfl

/-- The bank of 0x100 words that holds an array (R51). -/
def ArrayName.bank (b : ArrayName) : Nat := b.base / 0x100

theorem ArrayName.base_eq (b : ArrayName) : b.base = 0x100 * b.bank := by cases b <;> rfl

theorem arrayOfBank_bank (b : ArrayName) : arrayOfBank b.bank = some b := by cases b <;> rfl

theorem ArrayName.bank_pos (b : ArrayName) : 1 ≤ b.bank := by cases b <;> decide

theorem ArrayName.bank_le (b : ArrayName) : b.bank ≤ 6 := by cases b <;> decide

theorem arrayOfBank_eq_some (h : arrayOfBank k = some b) : b.bank = k := by
  unfold arrayOfBank at h
  split at h <;> cases h <;> rfl

/-- The largest array, UN, fits its bank (R11, D2). -/
theorem ArrayName.size_le (hL : L ≤ 255) (b : ArrayName) : b.size L ≤ 0x100 := by
  cases b <;> simp only [ArrayName.size] <;> omega

/-- The word address of a limb of an instantiation has not wrapped round. -/
theorem toNat_addrOf_limb (hL : L ≤ 255) (hi : i < b.size L) :
    (addrOf (.data (.limb b i))).toNat = 0x100 * b.bank + i := by
  have hsize := b.size_le hL
  have hbank := b.bank_le
  rw [addrOf, BitVec.toNat_ofNat, b.base_eq]
  exact Nat.mod_eq_of_lt (by omega)

theorem toNat_addrOf_scalar (m : ScalarName) : (addrOf (.data (.scalar m))).toNat = m.addr := by cases m <;> rfl

/-- Above the scalar registers, an address names the limb its bank and its offset give (R51). -/
theorem regAt_limb (hL : L ≤ 255) (hi : i < b.size L) :
    regAt L (addrOf (.data (.limb b i))) = some (.data (.limb b i)) := by
  have hsize := b.size_le hL
  have hbank := b.bank_pos
  have hdiv : (0x100 * b.bank + i) / 0x100 = b.bank := by omega
  have hmod : (0x100 * b.bank + i) % 0x100 = i := by omega
  unfold regAt
  rw [toNat_addrOf_limb hL hi]
  split
  · omega
  · omega
  · omega
  · rw [if_neg (by omega), hdiv, hmod, arrayOfBank_bank]
    exact if_pos hi

/-- Every register of the instantiation is at its address (R51). -/
theorem regAt_addrOf (hL : L ≤ 255) (hr : r.legal L = true) : regAt L (addrOf r) = some r := by
  match r with
  | .cmd | .status | .config => rfl
  | .data (.scalar m) => cases m <;> rfl
  | .data (.limb b i) => exact regAt_limb hL (of_decide_eq_true hr)

/-- A mapped address is that of the register it names, which the instantiation has (R51). -/
theorem regAt_eq_some (hL : L ≤ 255) (h : regAt L a = some r) : addrOf r = a ∧ r.legal L = true := by
  unfold regAt at h
  split at h
  · cases h
    exact ⟨BitVec.eq_of_toNat_eq (Eq.symm ‹_›), rfl⟩
  · cases h
    exact ⟨BitVec.eq_of_toNat_eq (Eq.symm ‹_›), rfl⟩
  · cases h
    exact ⟨BitVec.eq_of_toNat_eq (Eq.symm ‹_›), rfl⟩
  · split at h
    · obtain ⟨m, hm, rfl⟩ := Option.map_eq_some_iff.1 h
      exact ⟨BitVec.eq_of_toNat_eq ((toNat_addrOf_scalar m).trans (scalarAt_eq_some hm)), rfl⟩
    · split at h
      · cases h
      · rename_i b hb
        split at h
        · rename_i hi
          cases h
          refine ⟨BitVec.eq_of_toNat_eq ?_, decide_eq_true hi⟩
          rw [toNat_addrOf_limb hL hi, arrayOfBank_eq_some hb]
          exact Nat.div_add_mod _ _
        · cases h

theorem regAt_eq_some_iff (hL : L ≤ 255) : regAt L a = some r ↔ addrOf r = a ∧ r.legal L = true := by
  refine ⟨regAt_eq_some hL, ?_⟩
  rintro ⟨rfl, hr⟩
  exact regAt_addrOf hL hr

/-- R51's list holds the address of every register of the instantiation. -/
theorem mapped_addrOf (hL : L ≤ 255) (hr : r.legal L = true) : mapped L (addrOf r).toNat := by
  unfold mapped
  match r with
  | .cmd => exact .inl rfl
  | .status => exact .inr (.inl rfl)
  | .config => exact .inr (.inr (.inl rfl))
  | .data (.scalar m) =>
    rw [toNat_addrOf_scalar]
    cases m <;> simp [ScalarName.addr]
  | .data (.limb b i) =>
    have hi : i < b.size L := of_decide_eq_true hr
    rw [toNat_addrOf_limb hL hi]
    cases b with
    | un =>
      have hlast : i ≤ L := Nat.le_of_lt_succ hi
      exact .inr (.inr (.inr (.inr (.inr (.inr ⟨Nat.le_add_right _ _, Nat.add_le_add_left hlast _⟩)))))
    | u | v | q | r | vn =>
      exact .inr (.inr (.inr (.inr (.inr (.inl ⟨_, by decide, Nat.le_add_right _ _, Nat.add_lt_add_left hi _⟩)))))

/-- R51's list holds nothing but addresses of registers. -/
theorem exists_addrOf_eq_of_mapped (hL : L ≤ 255) (h : mapped L a.toNat) :
    ∃ r : WindowReg, addrOf r = a ∧ r.legal L = true := by
  have scalar : (∃ m : ScalarName, m.addr = a.toNat) → ∃ r : WindowReg, addrOf r = a ∧ r.legal L = true := by
    rintro ⟨m, hm⟩
    exact ⟨.data (.scalar m), BitVec.eq_of_toNat_eq ((toNat_addrOf_scalar m).trans hm), rfl⟩
  have limb (b : ArrayName) (hle : 0x100 * b.bank ≤ a.toNat) (hlt : a.toNat < 0x100 * b.bank + b.size L) :
      ∃ r : WindowReg, addrOf r = a ∧ r.legal L = true := by
    have hi : a.toNat - 0x100 * b.bank < b.size L := by omega
    refine ⟨.data (.limb b (a.toNat - 0x100 * b.bank)), BitVec.eq_of_toNat_eq ?_, decide_eq_true hi⟩
    rw [toNat_addrOf_limb hL hi]
    omega
  obtain h | h | h | ⟨hle, hlt⟩ | ⟨hle, hlt⟩ | ⟨k, hk, hle, hlt⟩ | ⟨hle, hlt⟩ := h
  · exact ⟨.cmd, BitVec.eq_of_toNat_eq h.symm, rfl⟩
  · exact ⟨.status, BitVec.eq_of_toNat_eq h.symm, rfl⟩
  · exact ⟨.config, BitVec.eq_of_toNat_eq h.symm, rfl⟩
  · refine scalar ?_
    interval_cases a.toNat
    exacts [⟨.x0, rfl⟩, ⟨.x1, rfl⟩, ⟨.x2, rfl⟩, ⟨.y0, rfl⟩, ⟨.y1, rfl⟩, ⟨.vr, rfl⟩]
  · refine scalar ?_
    interval_cases a.toNat
    exacts [⟨.qs, rfl⟩, ⟨.rs0, rfl⟩, ⟨.rs1, rfl⟩, ⟨.rcp, rfl⟩, ⟨.shift, rfl⟩]
  · have hbank : k = 1 ∨ k = 2 ∨ k = 3 ∨ k = 4 ∨ k = 6 := by simpa using hk
    obtain rfl | rfl | rfl | rfl | rfl := hbank
    exacts [limb .u hle hlt, limb .v hle hlt, limb .q hle hlt, limb .r hle hlt, limb .vn hle hlt]
  · exact limb .un hle (Nat.lt_succ_of_le hlt)

/-- The window maps exactly R51's list. -/
theorem regAt_isSome_iff (hL : L ≤ 255) : (regAt L a).isSome = true ↔ mapped L a.toNat := by
  simp only [Option.isSome_iff_exists, regAt_eq_some_iff hL]
  refine ⟨?_, exists_addrOf_eq_of_mapped hL⟩
  rintro ⟨r, rfl, hr⟩
  exact mapped_addrOf hL hr

theorem regAt_eq_none (hL : L ≤ 255) (h : ¬ mapped L a.toNat) : regAt L a = none :=
  Option.not_isSome_iff_eq_none.1 (mt (regAt_isSome_iff hL).1 h)

end Sys2Proof.Machine
end

section
/-! PROOFS. The host's access primitives, one equation per check in the order of R186 (R55, R56). -/

namespace Sys2Proof.Machine

variable {s : State} {a : WordAddr} {w x : Word} {n : RegName}

/-! ## `MemRead` (R55) -/

theorem memRead_unmapped (h : regAt s.L a = none) : memRead s a = .error .badAddress := by
  simp [memRead, h]

theorem memRead_cmd (s : State) : memRead s 0x000 = .ok 0 := rfl

theorem memRead_busy_result (h : regAt s.L a = some (.data n)) (hb : s.status.busy = true) (hn : n.isResult = true) :
    memRead s a = .error .hazardBusyRead := by
  simp [memRead, h, hb, hn]

theorem memRead_unwritten (h : regAt s.L a = some (.data n)) (hbn : ¬ (s.status.busy = true ∧ n.isResult = true))
    (hu : s.reg n = .unwritten) : memRead s a = .error .unwrittenRead := by
  simp [memRead, h, hbn, hu]

theorem memRead_value (h : regAt s.L a = some (.data n)) (hbn : ¬ (s.status.busy = true ∧ n.isResult = true))
    (hx : s.reg n = .value x) : memRead s a = .ok x := by
  simp [memRead, h, hbn, hx]

/-! ## `MemWrite` (R56) -/

theorem memWrite_unmapped (h : regAt s.L a = none) : memWrite s a w = .error .badAddress := by
  simp [memWrite, h]

theorem memWrite_cmd_busy (hb : s.status.busy = true) : memWrite s 0x000 w = .error .hazardBusyWrite :=
  if_pos hb

theorem memWrite_cmd (hb : s.status.busy = false) : memWrite s 0x000 w = .ok (s.start w) :=
  if_neg (by simp [hb])

theorem memWrite_status (s : State) (w : Word) : memWrite s 0x001 w = .error .readOnlyWrite := rfl

theorem memWrite_result (h : regAt s.L a = some (.data n)) (hn : n.isResult = true) :
    memWrite s a w = .error .readOnlyWrite := by
  simp [memWrite, h, hn]

theorem memWrite_operand_busy (h : regAt s.L a = some (.data n)) (hn : n.isResult = false)
    (hb : s.status.busy = true) : memWrite s a w = .error .hazardBusyWrite := by
  simp [memWrite, h, hn, hb]

theorem memWrite_operand (h : regAt s.L a = some (.data n)) (hn : n.isResult = false)
    (hb : s.status.busy = false) : memWrite s a w = .ok (s.setReg n w) := by
  simp [memWrite, h, hn, hb]

/-- A mapped data register is one of the state's (R28–R33, R51), so a write to it reads back. -/
theorem State.Inv.setReg_reg_same (hinv : s.Inv) (h : regAt s.L a = some (.data n)) (w : Word) :
    (s.setReg n w).reg n = .value w := by
  obtain ⟨-, hlegal⟩ := regAt_eq_some hinv.limbCount.2 h
  refine State.setReg_reg_same s w ?_
  rintro b i rfl
  rw [hinv.size b]
  exact of_decide_eq_true hlegal

end Sys2Proof.Machine
end

section
/-! PROOFS. The register window (R51, R55, R56). -/

namespace Sys2Proof.Machine

/-- Settles O11: the map inverts `addrOf` on the registers of the instantiation (`regAt_eq_some_iff`). -/
theorem windowMap : Obligations.WindowMap := by
  unfold Obligations.WindowMap
  intro L _ hL
  refine ⟨fun a => regAt_isSome_iff hL, fun i hi => ?_, fun i hi => ?_, fun a a' r h h' => ?_, fun s a w hs h => ?_⟩
  · exact ⟨regAt_limb (b := .u) hL hi, regAt_limb (b := .v) hL hi, regAt_limb (b := .q) hL hi,
      regAt_limb (b := .r) hL hi, regAt_limb (b := .vn) hL hi⟩
  · exact regAt_limb (b := .un) hL (Nat.lt_succ_of_le hi)
  · obtain ⟨ha, -⟩ := regAt_eq_some hL h
    obtain ⟨ha', -⟩ := regAt_eq_some hL h'
    exact ha.symm.trans ha'
  · subst hs
    have hnone := regAt_eq_none hL h
    exact ⟨memRead_unmapped hnone, memWrite_unmapped hnone⟩

/-- The result registers by name (R55). -/
theorem RegName.isResult_iff (n : RegName) : n.isResult = true ↔
    n ∈ ([.qs, .rs0, .rs1, .rcp, .shift] : List ScalarName).map RegName.scalar ∨
      ∃ i, n = .limb .q i ∨ n = .limb .r i ∨ n = .limb .un i ∨ n = .limb .vn i := by
  cases n with
  | scalar m => cases m <;> simp [RegName.isResult, ScalarName.isResult]
  | limb a i => cases a <;> simp [RegName.isResult, ArrayName.isResult]

/-- A read changes neither a register nor STATUS: what it changes is the host's part, or the fault (R55, R60). -/
theorem hostRead_sameEngine {s t : State} {src : BusAddr} {mode : TraceMode} {dst : Option HostVar}
    (h : hostRead src mode dst s = .next t) : s.sameEngine { t with fault := s.fault } := by
  obtain ⟨f, -, rfl⟩ | ⟨r, w, -, rfl⟩ := hostRead_next h
  · rfl
  · rfl

/-- Settles O13, check by check. -/
theorem hostReadRule : Obligations.HostReadRule := by
  unfold Obligations.HostReadRule
  refine ⟨fun s a => ⟨memRead_unmapped, ?_, ?_, ?_, fun n h => ⟨memRead_busy_result h, fun hbn => ?_⟩⟩,
    RegName.isResult_iff, fun s t src mode dst => hostRead_sameEngine⟩
  · rintro rfl
    exact memRead_cmd s
  · rintro rfl
    exact memRead_status
  · rintro rfl
    exact memRead_config s
  · exact ⟨memRead_unwritten h hbn, fun x => memRead_value h hbn⟩

/-- Settles O14, check by check; the frame of an operand write is that of `State.setReg`. -/
theorem hostWriteRule : Obligations.HostWriteRule := by
  unfold Obligations.HostWriteRule
  intro s a w hinv
  refine ⟨memWrite_unmapped, ?_, ?_, ?_, fun n h => memWrite_result h, fun n h => memWrite_operand_busy h,
    fun n h hn hb => ⟨s.setReg n w, memWrite_operand h hn hb, hinv.setReg_reg_same h w,
      fun m hm => s.setReg_reg_other w hm, by simp⟩⟩
  · rintro rfl hb
    exact memWrite_cmd_busy hb
  · rintro rfl hb
    exact memWrite_cmd hb
  · rintro (rfl | rfl)
    · exact memWrite_status s w
    · exact memWrite_config s w

end Sys2Proof.Machine
end

section
/-! PROOFS. The decoder, one equation per branch, and the OP values that select a command (R75, R77, R81). -/

namespace Sys2Proof

variable {w : Word} {op : BitVec 4} {i : Instr}

/-- The opcode map selects a command exactly at its OP (R77). -/
theorem commandOfOp_eq_some_iff : commandOfOp op = some i ↔ op = opcode i := by
  constructor
  · intro h
    unfold commandOfOp at h
    split at h <;> cases h <;> exact BitVec.eq_of_toNat_eq ‹_›
  · rintro rfl
    cases i <;> rfl

/-- The OP values that select no command (R77, R81). -/
theorem commandOfOp_eq_none (h : op = 0 ∨ 7 ≤ op.toNat) : commandOfOp op = none := by
  refine Option.eq_none_iff_forall_ne_some.2 fun i hi => ?_
  obtain rfl := commandOfOp_eq_some_iff.1 hi
  revert h
  cases i <;> decide

theorem commandWord (i : Instr) : Laws.CommandWord.Statement i := by
  cases i with
  | norm => exact Laws.CommandWord.norm
  | recip21 => exact Laws.CommandWord.recip21
  | div21 => exact Laws.CommandWord.div21
  | recip32 => exact Laws.CommandWord.recip32
  | div32 => exact Laws.CommandWord.div32
  | divide => exact Laws.CommandWord.divide

theorem decode_of_rsvField_ne_zero (h : rsvField w ≠ 0) : decode w = .illegal .reservedNotZero := if_pos h

theorem decode_of_commandOfOp_some (hr : rsvField w = 0) (hc : commandOfOp (opField w) = some i) :
    decode w = .command i := by
  simp [decode, hr, hc]

theorem decode_of_commandOfOp_none (hr : rsvField w = 0) (hc : commandOfOp (opField w) = none) :
    decode w = .illegal (.noSuchCommand (opField w)) := by
  simp [decode, hr, hc]

theorem decode_encode (i : Instr) : decode (encode i) = .command i := by
  obtain ⟨-, hrsv, hop, -⟩ := commandWord i
  exact decode_of_commandOfOp_some hrsv (commandOfOp_eq_some_iff.2 hop)

/-- The illegal words of R81, by field. -/
theorem exists_decode_eq_illegal (h : rsvField w ≠ 0 ∨ opField w = 0 ∨ 7 ≤ (opField w).toNat) :
    ∃ why, decode w = .illegal why := by
  by_cases hr : rsvField w = 0
  · exact ⟨_, decode_of_commandOfOp_none hr (commandOfOp_eq_none (h.resolve_left (not_not_intro hr)))⟩
  · exact ⟨_, decode_of_rsvField_ne_zero hr⟩

/-- Settles O19: each word is its command's `encode`, which `decode` inverts. -/
theorem opcodeMap : Obligations.OpcodeMap := by
  unfold Obligations.OpcodeMap
  exact ⟨rfl, decode_encode .norm, rfl, decode_encode .recip21, rfl, decode_encode .div21, rfl, decode_encode .recip32,
    rfl, decode_encode .div32, rfl, decode_encode .divide, fun _ => commandOfOp_eq_none⟩

end Sys2Proof
end

section
/-! PROOFS. Illegal command words at the CMD write and at the engine step (R80, R81). -/

namespace Sys2Proof.Machine

theorem engineStep_illegal {s : State} {w : Word} {why : IllegalWord} (hp : s.pending = some w)
    (hd : decode w = .illegal why) : engineStep s = .next (s.complete causeIllegalCommand) := by
  simp [engineStep, hp, hd]

/-- Settles O21: the idle CMD write accepts every word, and `complete` is the engine step's whole effect. -/
theorem illegalWordCompletesWithCause2 : Obligations.IllegalWordCompletesWithCause2 := by
  unfold Obligations.IllegalWordCompletesWithCause2
  intro s w h
  obtain ⟨why, hd⟩ := exists_decode_eq_illegal h
  exact ⟨memWrite_cmd, fun hp => engineStep_illegal hp hd⟩

end Sys2Proof.Machine
end

section
/-! PROOFS. The significant limbs of a number and its top limb (R15, R101, R153). -/

namespace Sys2Proof.Machine

/-- The count of the tail and the lowest limb decide the count: a zero limb counts when a limb above it does. -/
theorem significantLimbs_cons (w : Word) (ws : List Word) :
    significantLimbs (w :: ws) = if significantLimbs ws = 0 ∧ w = 0 then 0 else significantLimbs ws + 1 := by
  cases h : significantLimbs ws <;> simp [significantLimbs, h]

theorem significantLimbs_le_length (ws : List Word) : significantLimbs ws ≤ ws.length := by
  induction ws with
  | nil => simp [significantLimbs]
  | cons w ws ih =>
    rw [significantLimbs_cons, List.length_cons]
    split <;> omega

/-- Only zero has no significant limb. -/
theorem significantLimbs_eq_zero_iff {ws : List Word} : significantLimbs ws = 0 ↔ val ws = 0 := by
  induction ws with
  | nil => simp [significantLimbs]
  | cons w ws ih => simp [significantLimbs_cons, ih, and_comm, BitVec.toNat_eq]

/-- The limbs above the significant ones are zero. -/
theorem getD_of_significantLimbs_le {ws : List Word} {i : Nat} (h : significantLimbs ws ≤ i) : ws.getD i 0 = 0 := by
  induction ws generalizing i with
  | nil => simp
  | cons w ws ih =>
    rw [significantLimbs_cons] at h
    cases i with
    | zero =>
      obtain ⟨-, hw⟩ : significantLimbs ws = 0 ∧ w = 0 := by simpa using h
      exact hw
    | succ i =>
      have hi : significantLimbs ws ≤ i := by split at h <;> omega
      exact ih hi

/-- The top significant limb stands at the index of the tail's count. -/
theorem significantLimbs_cons_sub_one (w : Word) (ws : List Word) :
    significantLimbs (w :: ws) - 1 = significantLimbs ws := by
  rw [significantLimbs_cons]
  split <;> omega

/-- The top significant limb of a nonzero number is nonzero. -/
theorem getD_significantLimbs_ne_zero {ws : List Word} (h : val ws ≠ 0) :
    ws.getD (significantLimbs ws - 1) 0 ≠ 0 := by
  induction ws with
  | nil => exact absurd rfl h
  | cons w ws ih =>
    rw [significantLimbs_cons_sub_one]
    cases hws : significantLimbs ws with
    | zero => simpa [significantLimbs_eq_zero_iff.1 hws, BitVec.toNat_eq] using h
    | succ k => simpa [hws] using ih (mt significantLimbs_eq_zero_iff.2 (by omega))

/-- A number is below its top significant limb plus one, in that limb's place. -/
theorem val_lt_topLimb (ws : List Word) :
    val ws < ((ws.getD (significantLimbs ws - 1) 0).toNat + 1) * B ^ (significantLimbs ws - 1) := by
  induction ws with
  | nil => simp
  | cons w ws ih =>
    rw [significantLimbs_cons_sub_one]
    cases hws : significantLimbs ws with
    | zero => simp [significantLimbs_eq_zero_iff.1 hws]
    | succ k =>
      rw [hws, Nat.add_sub_cancel] at ih
      have hw : w.toNat < B := w.isLt
      calc w.toNat + B * val ws < B * (val ws + 1) := by rw [Nat.mul_add_one, Nat.add_comm]; gcongr
        _ ≤ B * (((ws.getD k 0).toNat + 1) * B ^ k) := Nat.mul_le_mul_left _ ih
        _ = (((w :: ws).getD (k + 1) 0).toNat + 1) * B ^ (k + 1) := by rw [List.getD_cons_succ]; ring

/-- Shifted up by its leading zeros, a nonzero limb leaves room for what comes in below it (R15). -/
theorem add_one_mul_two_pow_clz64_le {x : Nat} (h0 : x ≠ 0) (h : x < B) : (x + 1) * 2 ^ clz64 x ≤ B := by
  have hlog : Nat.log2 x < 64 := (Nat.log2_lt h0).2 h
  calc (x + 1) * 2 ^ clz64 x ≤ 2 ^ (Nat.log2 x + 1) * 2 ^ clz64 x := Nat.mul_le_mul_right _ Nat.lt_log2_self
    _ = 2 ^ (Nat.log2 x + 1 + (63 - Nat.log2 x)) := (pow_add _ _ _).symm
    _ = B := by congr 1; omega

end Sys2Proof.Machine
end

section
/-! PROOFS. The value of the normalized operands (R102). -/

namespace Sys2Proof.Machine

variable {L : Nat} {us vs : List Word}

theorem normalizeUV_s_le (L : Nat) (us vs : List Word) : (normalizeUV L us vs).s ≤ 63 := Nat.sub_le _ _

/-- The normalized divisor still fits the significant limbs of the divisor (R102). -/
theorem val_mul_normalizeUV_shift_lt (L : Nat) (us : List Word) (hv : val vs ≠ 0) :
    val vs * 2 ^ (normalizeUV L us vs).s < B ^ (normalizeUV L us vs).n := by
  obtain ⟨k, hk⟩ := Nat.exists_eq_succ_of_ne_zero (mt significantLimbs_eq_zero_iff.1 hv)
  have htop : (vs.getD (significantLimbs vs - 1) 0).toNat ≠ 0 := by
    simpa [BitVec.toNat_eq] using getD_significantLimbs_ne_zero hv
  have hlt := val_lt_topLimb vs
  have hle := add_one_mul_two_pow_clz64_le htop (BitVec.isLt _)
  simp only [normalizeUV]
  rw [hk, Nat.succ_sub_one] at hlt hle ⊢
  calc val vs * 2 ^ clz64 (vs.getD k 0).toNat
      < ((vs.getD k 0).toNat + 1) * B ^ k * 2 ^ clz64 (vs.getD k 0).toNat :=
        Nat.mul_lt_mul_of_pos_right hlt (Nat.two_pow_pos _)
    _ = ((vs.getD k 0).toNat + 1) * 2 ^ clz64 (vs.getD k 0).toNat * B ^ k := by ring
    _ ≤ B * B ^ k := Nat.mul_le_mul_right _ hle
    _ = B ^ (k + 1) := (pow_succ' _ _).symm

/-- The longer dividend array drops no bit of the shifted dividend (R102). -/
theorem val_normalizeUV_un (vs : List Word) (hu : us.length = L) :
    val (normalizeUV L us vs).un = val us * 2 ^ (normalizeUV L us vs).s := by
  have hs : 2 ^ (normalizeUV L us vs).s ≤ B :=
    Nat.pow_le_pow_right (by decide) ((normalizeUV_s_le L us vs).trans (by decide))
  have hlt : val us * 2 ^ (normalizeUV L us vs).s < B ^ (L + 1) :=
    pow_succ B L ▸ Nat.mul_lt_mul_of_lt_of_le (hu ▸ val_lt us) hs (by simp)
  rw [← val_limbs_of_lt hlt, ← Nat.shiftLeft_eq]
  rfl

/-- The divisor array drops no bit of the shifted divisor (R102). -/
theorem val_normalizeUV_vn (us : List Word) (hlen : vs.length = L) (hv : val vs ≠ 0) :
    val (normalizeUV L us vs).vn = val vs * 2 ^ (normalizeUV L us vs).s := by
  have hn : (normalizeUV L us vs).n ≤ L := hlen ▸ significantLimbs_le_length vs
  have hlt := (val_mul_normalizeUV_shift_lt L us hv).trans_le (Nat.pow_le_pow_right (by decide) hn)
  rw [← val_limbs_of_lt hlt, ← Nat.shiftLeft_eq]
  rfl

end Sys2Proof.Machine
end

section
/-! PROOFS. The operand faults of the wide commands, and the NORM command rule (R80, R100, R104). -/

namespace Sys2Proof.Machine

variable {s : State}

theorem unwritten_not_mem_written (ws : List Word) : .unwritten ∉ written ws := by simp [written]

/-- A limb register that its array has and that reads as unwritten is an element of the array. -/
theorem State.unwritten_mem_array {a : ArrayName} {i : Nat} (hi : i < (s.array a).length)
    (h : s.reg (.limb a i) = .unwritten) : .unwritten ∈ s.array a := by
  have hget : (s.array a)[i] = .unwritten := by simpa [State.reg, hi] using h
  exact hget ▸ List.getElem_mem hi

theorem wideOperands_eq_none_of_mem (h : .unwritten ∈ s.u ∨ .unwritten ∈ s.v) : wideOperands s = none := by
  refine Option.eq_none_iff_forall_ne_some.2 fun o ho => ?_
  obtain ⟨hu, hv⟩ := wideOperands_eq_some.1 ho
  rw [hu, hv] at h
  exact h.elim (unwritten_not_mem_written _) (unwritten_not_mem_written _)

/-- An unwritten limb of U or V leaves NORM and DIVIDE without operands (R78, R80). -/
theorem State.Inv.wideOperands_eq_none (hinv : s.Inv)
    (h : ∃ i < s.L, s.reg (.limb .u i) = .unwritten ∨ s.reg (.limb .v i) = .unwritten) : wideOperands s = none := by
  obtain ⟨i, hi, h⟩ := h
  have hlt (a : ArrayName) (ha : a.size s.L = s.L) : i < (s.array a).length := by rwa [hinv.size a, ha]
  exact wideOperands_eq_none_of_mem
    (h.imp (State.unwritten_mem_array (hlt .u rfl)) (State.unwritten_mem_array (hlt .v rfl)))

theorem execNorm_eq_fault_unwrittenOperand (h : wideOperands s = none) : execNorm s = .fault .unwrittenOperand := by
  simp [execNorm, withOperands, h]

theorem execNorm_eq_fault_precondition {o : WideOperands} (ho : wideOperands s = some o) (hv : val o.v = 0) :
    execNorm s = .fault .precondition := by
  simp [execNorm, withOperands, requirePrecondition, ho, hv]

theorem execNorm_eq_next {o : WideOperands} (ho : wideOperands s = some o) (hv : val o.v ≠ 0) :
    execNorm s = .next (State.complete
      { s with
        shift := .value (BitVec.ofNat 64 (normalizeUV s.L o.u o.v).s)
        un := written (normalizeUV s.L o.u o.v).un
        vn := written (normalizeUV s.L o.u o.v).vn } causeNone) := by
  simp [execNorm, withOperands, requirePrecondition, ho, hv]

/-- Settles O25: the command writes what `normalizeUV` returns, whose arrays drop no bit of the shifted operands. -/
theorem normRule : Obligations.NormRule := by
  unfold Obligations.NormRule
  refine ⟨rfl, fun s hinv h => execNorm_eq_fault_unwrittenOperand (hinv.wideOperands_eq_none h), ?_⟩
  intro s us vs hu hv hulen hvlen
  have ho : wideOperands s = some ⟨us, vs⟩ := wideOperands_eq_some.2 ⟨hu, hv⟩
  refine ⟨execNorm_eq_fault_precondition ho, fun hne => ?_⟩
  exact ⟨significantLimbs vs, (normalizeUV s.L us vs).s, (normalizeUV s.L us vs).un, (normalizeUV s.L us vs).vn,
    Nat.one_le_iff_ne_zero.2 (mt significantLimbs_eq_zero_iff.1 hne), hvlen ▸ significantLimbs_le_length vs,
    getD_significantLimbs_ne_zero hne, fun _ => getD_of_significantLimbs_le, rfl,
    length_limbs _ _, val_normalizeUV_un vs hulen, length_limbs _ _, val_normalizeUV_vn us hvlen hne,
    execNorm_eq_next ho hne⟩

end Sys2Proof.Machine
end

section
/-! PROOFS. The 2-by-1 commands RECIP21 and DIV21: their preconditions, results and rules (R110, R111, R115–R117). -/

namespace Sys2Proof.Machine

variable {s : State}

/-! ## Preconditions and results -/

theorem toNat_ofNat_of_lt {n : Nat} (h : n < B) : (BitVec.ofNat 64 n).toNat = n := by
  rw [BitVec.toNat_ofNat, Nat.mod_eq_of_lt h]

theorem normalized_eq_true_iff {x : Word} : normalized x = true ↔ 2 ^ 63 ≤ x.toNat := by
  simp [normalized, BitVec.msb_eq_decide]

theorem normalized_eq_false_iff {x : Word} : normalized x = false ↔ x.toNat < 2 ^ 63 := by
  rw [← Bool.not_eq_true, normalized_eq_true_iff, Nat.not_le]

/-- The reciprocal of a normalized limb is a limb (R113). -/
theorem recip21_lt {d : Nat} (hd : 2 ^ 63 ≤ d) : recip21 d < B := by
  have hquot : (B ^ 2 - 1) / d < B + B := Nat.div_lt_of_lt_mul <|
    calc B ^ 2 - 1 < 2 ^ 63 * (B + B) := by decide
      _ ≤ d * (B + B) := Nat.mul_le_mul_right _ hd
  have hB : 0 < B := by decide
  unfold recip21
  omega

theorem div21Pre_eq_true_iff {o : Div21Operands} : div21Pre o = true ↔
    2 ^ 63 ≤ o.d.toNat ∧ o.u1.toNat < o.d.toNat ∧ o.v.toNat = recip21 o.d.toNat := by
  simp [div21Pre, normalized_eq_true_iff, and_assoc]

theorem div21Pre_eq_false_iff {o : Div21Operands} : div21Pre o = false ↔
    o.d.toNat < 2 ^ 63 ∨ o.d.toNat ≤ o.u1.toNat ∨ o.v.toNat ≠ recip21 o.d.toNat := by
  rw [← Bool.not_eq_true, div21Pre_eq_true_iff, not_and_or, not_and_or, Nat.not_le, Nat.not_lt]

/-- A dividend whose high limb is below the divisor has a one-limb quotient (R117). -/
theorem pair_div_lt {u1 d : Word} (u0 : Word) (h : u1.toNat < d.toNat) : pair u1 u0 / d.toNat < B := by
  refine Nat.div_lt_of_lt_mul ?_
  calc pair u1 u0 < (u1.toNat + 1) * B := by rw [Nat.add_one_mul]; exact Nat.add_lt_add_left u0.isLt _
    _ ≤ d.toNat * B := Nat.mul_le_mul_right _ h

/-! ## RECIP21 -/

theorem execRecip21_eq_fault_unwrittenOperand (h : s.y0 = .unwritten) : execRecip21 s = .fault .unwrittenOperand := by
  simp [execRecip21, withOperands, h]

theorem execRecip21_eq_fault_precondition {d : Word} (hy : s.y0 = .value d) (hd : normalized d = false) :
    execRecip21 s = .fault .precondition := by
  simp [execRecip21, withOperands, requirePrecondition, hy, hd]

theorem execRecip21_eq_next {d : Word} (hy : s.y0 = .value d) (hd : normalized d = true) :
    execRecip21 s =
      .next (State.complete { s with rcp := .value (BitVec.ofNat 64 (recip21 d.toNat)) } causeNone) := by
  simp [execRecip21, withOperands, requirePrecondition, hy, hd]

/-- Settles O26: RCP takes the exact reciprocal, which fits a limb when Y0 is normalized. -/
theorem recip21Rule : Obligations.Recip21Rule := by
  unfold Obligations.Recip21Rule
  refine ⟨rfl, fun s => execRecip21_eq_fault_unwrittenOperand, fun s d hy => ⟨fun hd => ?_, fun hd => ?_⟩⟩
  · exact execRecip21_eq_fault_precondition hy (normalized_eq_false_iff.2 hd)
  · exact ⟨BitVec.ofNat 64 (recip21 d.toNat), toNat_ofNat_of_lt (recip21_lt hd),
      execRecip21_eq_next hy (normalized_eq_true_iff.2 hd)⟩

/-! ## DIV21 -/

/-- An unwritten X1, X0, Y0 or VR leaves DIV21 without operands (R78, R80). -/
theorem div21Operands_eq_none
    (h : s.x1 = .unwritten ∨ s.x0 = .unwritten ∨ s.y0 = .unwritten ∨ s.vr = .unwritten) : div21Operands s = none := by
  refine Option.eq_none_iff_forall_ne_some.2 fun o ho => ?_
  obtain ⟨hx1, hx0, hy0, hvr⟩ := div21Operands_eq_some.1 ho
  simp [hx1, hx0, hy0, hvr] at h

theorem execDiv21_eq_fault_unwrittenOperand (h : div21Operands s = none) : execDiv21 s = .fault .unwrittenOperand := by
  simp [execDiv21, withOperands, h]

theorem execDiv21_eq_fault_precondition {o : Div21Operands} (ho : div21Operands s = some o)
    (hpre : div21Pre o = false) : execDiv21 s = .fault .precondition := by
  simp [execDiv21, withOperands, requirePrecondition, ho, hpre]

theorem execDiv21_eq_next {u1 u0 d v : Word} (ho : div21Operands s = some ⟨u1, u0, d, v⟩)
    (hpre : div21Pre ⟨u1, u0, d, v⟩ = true) : execDiv21 s = .next (State.complete
      { s with
        qs := .value (BitVec.ofNat 64 (pair u1 u0 / d.toNat))
        rs0 := .value (BitVec.ofNat 64 (pair u1 u0 % d.toNat)) } causeNone) := by
  simp [execDiv21, withOperands, requirePrecondition, udivrem21, ho, hpre]

/-- Settles O27: under R117 the quotient fits a limb, and the remainder does because it is below the divisor. -/
theorem div21Rule : Obligations.Div21Rule := by
  unfold Obligations.Div21Rule
  refine ⟨rfl, fun s h => execDiv21_eq_fault_unwrittenOperand (div21Operands_eq_none h), ?_⟩
  intro s u1 u0 d v hx1 hx0 hy0 hvr
  have ho : div21Operands s = some ⟨u1, u0, d, v⟩ := div21Operands_eq_some.2 ⟨hx1, hx0, hy0, hvr⟩
  refine ⟨fun h => execDiv21_eq_fault_precondition ho (div21Pre_eq_false_iff.2 h), fun hd hu hv => ?_⟩
  have hrem : pair u1 u0 % d.toNat < B := (Nat.mod_lt _ (Nat.zero_lt_of_lt hu)).trans d.isLt
  exact ⟨BitVec.ofNat 64 (pair u1 u0 / d.toNat), BitVec.ofNat 64 (pair u1 u0 % d.toNat),
    toNat_ofNat_of_lt (pair_div_lt u0 hu), toNat_ofNat_of_lt hrem,
    execDiv21_eq_next ho (div21Pre_eq_true_iff.2 ⟨hd, hu, hv⟩)⟩

end Sys2Proof.Machine
end

section
/-! PROOFS. The DIVIDE command rule: its operand fault, its two completions and its exact results (R150, R171). -/

namespace Sys2Proof.Machine

variable {s : State}

theorem execDivide_eq_fault_unwrittenOperand (h : wideOperands s = none) :
    execDivide s = .fault .unwrittenOperand := by
  simp [execDivide, withOperands, h]

/-- A zero divisor writes no result (R171). -/
theorem execDivide_eq_next_of_zero {o : WideOperands} (ho : wideOperands s = some o) (hv : val o.v = 0) :
    execDivide s = .next (s.complete causeDivByZero) := by
  simp [execDivide, withOperands, ho, hv]

theorem execDivide_eq_next {o : WideOperands} (ho : wideOperands s = some o) (hv : val o.v ≠ 0) :
    execDivide s = .next (State.complete
      { s with
        q := written (limbs s.L (val o.u / val o.v))
        r := written (limbs s.L (val o.u % val o.v)) } causeNone) := by
  simp [execDivide, withOperands, ho, hv]

/-- An array as long as `ws` holds every number that is no greater than `val ws`. -/
theorem val_limbs_of_le_val {L x : Nat} {ws : List Word} (hlen : ws.length = L) (hx : x ≤ val ws) :
    val (limbs L x) = x :=
  val_limbs_of_lt (hx.trans_lt (hlen ▸ val_lt ws))

/-- Settles O30: quotient and remainder are at most the dividend, so both arrays hold them exactly. -/
theorem divideRule : Obligations.DivideRule := by
  unfold Obligations.DivideRule
  refine ⟨rfl, fun s hinv h => execDivide_eq_fault_unwrittenOperand (hinv.wideOperands_eq_none h), ?_⟩
  intro s us vs hu hv hulen _
  have ho : wideOperands s = some ⟨us, vs⟩ := wideOperands_eq_some.2 ⟨hu, hv⟩
  refine ⟨execDivide_eq_next_of_zero ho, fun hne => ?_⟩
  exact ⟨limbs s.L (val us / val vs), limbs s.L (val us % val vs),
    length_limbs _ _, val_limbs_of_le_val hulen (Nat.div_le_self _ _),
    length_limbs _ _, val_limbs_of_le_val hulen (Nat.mod_le _ _),
    execDivide_eq_next ho hne⟩

end Sys2Proof.Machine
end

section
/-! PROOFS. How a command of a legal word ends: the faults it can raise and the STATUS it completes with (R181, R184). -/

namespace Sys2Proof.Machine

variable {s t : State} {i : Instr} {f : Fault}

theorem withOperands_fault {α : Type} {x : Option α} {rule : α → Host.Outcome State Fault Refusal} :
    withOperands x rule = .fault f ↔
      (x = none ∧ f = .unwrittenOperand) ∨ ∃ o, x = some o ∧ rule o = .fault f := by
  cases x <;> simp [withOperands, eq_comm]

theorem requirePrecondition_next_eq_fault {p : Bool} :
    requirePrecondition p (.next t) = .fault f ↔ p = false ∧ f = .precondition := by
  cases p <;> simp [requirePrecondition, eq_comm]

/-- A command that completes once its operands are written and its precondition holds has only these two faults. -/
theorem withOperands_requirePrecondition_fault {α : Type} {x : Option α} {pre : α → Bool} {result : α → State}
    (h : withOperands x (fun o => requirePrecondition (pre o) (.next (result o))) = .fault f) :
    f = .unwrittenOperand ∨ f = .precondition := by
  obtain ⟨-, hf⟩ | ⟨o, -, h⟩ := withOperands_fault.1 h
  · exact .inl hf
  · exact .inr (requirePrecondition_next_eq_fault.1 h).2

/-- DIVIDE has no precondition: with its operands written it completes, whatever the divisor (R150, R171). -/
theorem exec_divide_fault (h : exec .divide s = .fault f) : f = .unwrittenOperand := by
  obtain ⟨-, hf⟩ | ⟨o, -, h⟩ := withOperands_fault.1 h
  · exact hf
  · split at h <;> cases h

/-- A command faults on an unwritten operand or on its precondition (R80, R184). -/
theorem exec_fault (h : exec i s = .fault f) : f = .unwrittenOperand ∨ f = .precondition := by
  cases i with
  | norm => exact withOperands_requirePrecondition_fault h
  | recip21 => exact withOperands_requirePrecondition_fault h
  | div21 => exact withOperands_requirePrecondition_fault h
  | recip32 => exact withOperands_requirePrecondition_fault h
  | div32 => exact withOperands_requirePrecondition_fault h
  | divide => exact .inl (exec_divide_fault h)

/-- The STATUS a command completes with (R24, R181). -/
theorem exec_next_status (h : exec i s = .next t) :
    t.status = doneStatus ∨ (i = .divide ∧ t.status = errorStatus 1) := by
  obtain ⟨t', -, rfl⟩ | ⟨hi, rfl⟩ := exec_next h
  · exact .inl rfl
  · exact .inr ⟨hi, rfl⟩

/-- Settles O35: a command completes or faults, and `exec_next_status` and the fault lemmas say how. -/
theorem onlyDivideReportsAnError : Obligations.OnlyDivideReportsAnError := by
  unfold Obligations.OnlyDivideReportsAnError
  refine ⟨fun s i hi => ?_, fun s => ?_⟩
  · cases h : exec i s with
    | next t => exact .inl ⟨t, rfl, (exec_next_status h).resolve_right fun herr => hi herr.1⟩
    | fault f =>
      obtain rfl | rfl := exec_fault h
      · exact .inr (.inl rfl)
      · exact .inr (.inr rfl)
    | refused r => exact absurd h (exec_not_refused i r)
  · cases h : exec .divide s with
    | next t => exact .inl ⟨t, rfl, (exec_next_status h).imp_right And.right⟩
    | fault f =>
      obtain rfl := exec_divide_fault h
      exact .inr rfl
    | refused r => exact absurd h (exec_not_refused .divide r)

end Sys2Proof.Machine
end

section
/-! PROOFS. The reset input (R200), and the hazards of an access while `BUSY = 1` (R206, R207). -/

namespace Sys2Proof.Machine

variable {s : State}

/-- A reset turn asks for nothing, neither of BUSY nor of the fault: reset is enabled at every point (R61, R200). -/
theorem step_reset {rest : List Turn} (h : s.sched = .reset :: rest) : step s = .next (s.withTurns rest).resetEngine := by
  simp only [step, transition, h]

@[simp] theorem State.resetEngine_reg (s : State) (n : RegName) : s.resetEngine.reg n = .unwritten := by
  cases n with
  | scalar m => exact s.resetEngine_scalar m
  | limb a i => simp [State.reg]

theorem State.resetEngine_status_word (s : State) : s.resetEngine.status.word = 0 := resetFor_status_word s.L

/-- Settles O4: each clause is the reset value of its field, on the state with the reset turn taken off. -/
theorem resetActsAtEveryPoint : Obligations.ResetActsAtEveryPoint := by
  unfold Obligations.ResetActsAtEveryPoint
  intro s rest h
  refine ⟨_, step_reset h, State.resetEngine_pending _, State.resetEngine_status_word _, State.resetEngine_status _,
    State.resetEngine_reg _, State.resetEngine_fault _, State.resetEngine_L _, ?_⟩
  rw [memRead_config, memRead_config, State.resetEngine_L, State.withTurns_L]

/-- Every data register of a state that meets the invariant is at its address (R11, R51). -/
theorem State.Inv.regAt_data {n : RegName} (hinv : s.Inv) (hn : n.legal s.L = true) :
    regAt s.L (addrOf (.data n)) = some (.data n) :=
  regAt_addrOf hinv.limbCount.2 hn

/-- Settles O17: every operand register is at its address, where the busy check comes before the write. -/
theorem busyWriteHazard : Obligations.BusyWriteHazard := by
  unfold Obligations.BusyWriteHazard
  intro s w hinv hb
  exact ⟨memWrite_cmd_busy hb, fun n hn hop => memWrite_operand_busy (hinv.regAt_data hn) hop hb⟩

/-- Settles O18: the busy check of a read holds up result registers only; CMD, STATUS and CONFIG have none. -/
theorem busyReadHazard : Obligations.BusyReadHazard := by
  unfold Obligations.BusyReadHazard
  intro s hinv hb
  refine ⟨fun n hn hres => memRead_busy_result (hinv.regAt_data hn) hb hres, fun n hn hop x hx => ?_, fun a ha => ?_⟩
  · have hfree : ¬ (s.status.busy = true ∧ n.isResult = true) := fun h => by simp [hop] at h
    exact memRead_value (hinv.regAt_data hn) hfree hx
  · have hctl : a = 0x000 ∨ a = 0x001 ∨ a = 0x002 := by simpa using ha
    obtain rfl | rfl | rfl := hctl
    · exact ⟨_, memRead_cmd s⟩
    · exact ⟨_, memRead_status⟩
    · exact ⟨_, memRead_config s⟩

end Sys2Proof.Machine
end

section
/-! PROOFS. The invariant: it holds after reset, and every action of the engine, the host and the reset input keeps it
(R11, R23, R27–R35, R41). -/

namespace Sys2Proof.Machine

variable {s t : State}

/-- The invariant speaks of the limb count, the arrays, STATUS, the latch and SHIFT alone. -/
theorem State.Inv.congr (hs : s.Inv) (hL : t.L = s.L) (harray : ∀ a, t.array a = s.array a)
    (hstatus : t.status = s.status) (hpending : t.pending = s.pending) (hshift : t.shift = s.shift) : t.Inv where
  limbCount := hL ▸ hs.limbCount
  size a := by rw [harray, hL, hs.size]
  status := hstatus ▸ hs.status
  pending := by rw [hpending, hstatus, hs.pending]
  shift x hx := hs.shift x (hshift ▸ hx)

theorem State.Inv.withTurns (hs : s.Inv) (rest : List Turn) : (s.withTurns rest).Inv :=
  hs.congr rfl (s.withTurns_array rest) rfl rfl rfl

theorem State.Inv.advance (hs : s.Inv) : s.advance.Inv := hs.congr rfl s.advance_array rfl rfl rfl

theorem State.Inv.raise (hs : s.Inv) (f : Fault) : (s.raise f).Inv := hs.congr rfl (s.raise_array f) rfl rfl rfl

theorem State.Inv.start (hs : s.Inv) (w : Word) : (s.start w).Inv where
  limbCount := hs.limbCount
  size a := by rw [s.start_array w a, s.start_L w, hs.size]
  status := rfl
  pending := rfl
  shift := hs.shift

/-- A host write to an operand register keeps the invariant: SHIFT is a result register (R27, R56). -/
theorem State.Inv.setReg {n : RegName} (hs : s.Inv) (hn : n.isResult = false) (w : Word) : (s.setReg n w).Inv where
  limbCount := s.setReg_L n w ▸ hs.limbCount
  size a := by rw [s.setReg_array_length, s.setReg_L, hs.size]
  status := s.setReg_status n w ▸ hs.status
  pending := by rw [s.setReg_pending, s.setReg_status, hs.pending]
  shift x hx := by
    have hne : RegName.scalar .shift ≠ n := by rintro rfl; cases hn
    exact hs.shift x ((s.setReg_reg_other w hne).symm.trans hx)

/-- A completion needs of STATUS and the latch nothing but a cause that R180 knows. -/
theorem State.Inv.complete_of {c : BitVec 4} (hL : Config.minLimbs ≤ s.L ∧ s.L ≤ Config.maxLimbs)
    (hsize : ∀ a : ArrayName, (s.array a).length = a.size s.L) (hshift : ∀ x : Word, s.shift = .value x → x.toNat ≤ 63)
    (hc : (Status.completed c).legal = true) : (s.complete c).Inv where
  limbCount := hL
  size a := by rw [s.complete_array, s.complete_L, hsize]
  status := hc
  pending := rfl
  shift := hshift

theorem State.Inv.complete {c : BitVec 4} (hs : s.Inv) (hc : (Status.completed c).legal = true) : (s.complete c).Inv :=
  State.Inv.complete_of hs.limbCount hs.size hs.shift hc

/-- Only NORM names SHIFT as a result (R79). -/
theorem shift_mem_resultRegs {L : Nat} {i : Instr} : RegName.scalar .shift ∈ resultRegs L i ↔ i = .norm := by
  cases i <;> simp [resultRegs]

/-- A command leaves at most 63 in SHIFT (R27). -/
theorem State.Inv.exec_shift_le {i : Instr} {x : Word} (hs : s.Inv) (h : exec i s = .next t) (hx : t.shift = .value x) :
    x.toNat ≤ 63 := by
  by_cases hi : i = .norm
  · subst hi
    obtain ⟨o, -, -, rfl⟩ := execNorm_next h
    obtain rfl := RegVal.value.inj hx
    exact (Nat.mod_le _ _).trans (normalizeUV_s_le s.L o.u o.v)
  · obtain ⟨hother, -⟩ := commandWritesExactlyItsResults s t i hs h
    exact hs.shift x ((hother _ (mt shift_mem_resultRegs.1 hi)).symm.trans hx)

/-- A completed command keeps the invariant (R24, R79). -/
theorem State.Inv.exec {i : Instr} (hs : s.Inv) (h : exec i s = .next t) : t.Inv := by
  have hshift x (hx : t.shift = .value x) := hs.exec_shift_le h hx
  obtain ⟨t', hw, rfl⟩ | ⟨-, rfl⟩ := exec_next h
  · obtain ⟨hL, -⟩ := hw.frame
    exact State.Inv.complete_of (hL ▸ hs.limbCount) (hL ▸ hw.array_length hs.size) hshift (by decide)
  · exact hs.complete (by decide)

theorem State.Inv.engineStep (hs : s.Inv) (h : engineStep s = .next t) : t.Inv := by
  obtain ⟨w, -, ⟨why, -, rfl⟩ | ⟨i, -, he⟩ | ⟨i, f, -, -, rfl⟩⟩ := engineStep_next h
  · exact hs.complete (by decide)
  · exact hs.exec he
  · exact hs.raise f

theorem State.Inv.memWrite {a : WordAddr} {w : Word} (hs : s.Inv) (h : memWrite s a w = .ok t) : t.Inv := by
  obtain ⟨-, ⟨-, rfl⟩ | ⟨n, -, hn, rfl⟩⟩ := memWrite_ok h
  · exact hs.start w
  · exact hs.setReg hn w

theorem State.Inv.hostOp {op : HostOp} (hs : s.Inv) (h : hostOp op s = .next t) : t.Inv := by
  cases op with
  | write dst src =>
    obtain ⟨w, -, ⟨f, -, rfl⟩ | ⟨a, s', -, hw, rfl⟩⟩ := hostWrite_next h
    · exact hs.raise f
    · exact (hs.memWrite hw).advance
  | read src mode dst =>
    obtain ⟨f, -, rfl⟩ | ⟨r, w, -, rfl⟩ := hostRead_next h
    · exact hs.raise f
    · exact hs.congr rfl (by rintro ⟨⟩ <;> rfl) rfl rfl rfl
  | wait =>
    obtain rfl := Host.Outcome.next.inj (hostWait_eq.symm.trans h)
    split
    · exact hs
    · exact hs.advance

theorem State.Inv.hostStep (hs : s.Inv) (h : hostStep s = .next t) : t.Inv := by
  obtain ⟨-, rfl⟩ | ⟨op, -, hop⟩ := hostStep_next h
  · exact hs
  · exact hs.hostOp hop

/-- The reset state meets the invariant, whatever host and turns it stands with (R41). -/
theorem State.Inv.resetEngine (hs : s.Inv) : s.resetEngine.Inv where
  limbCount := hs.limbCount
  size a := by simp
  status := rfl
  pending := rfl
  shift _ hx := nomatch (show RegVal.unwritten = .value _ from hx)

theorem State.Inv.step (hs : s.Inv) (h : step s = .next t) : t.Inv := by
  have hs' := hs.withTurns s.sched.tail
  obtain ⟨-, rfl⟩ | ⟨-, -, rfl | ⟨-, he⟩ | hh⟩ := step_cases h
  · exact hs'.resetEngine
  · exact hs'
  · exact hs'.engineStep he
  · exact hs'.hostStep hh

/-- Settles O3: every action a step can take keeps the invariant, and no step changes the limb count. -/
theorem stepKeepsTheInvariant : Obligations.StepKeepsTheInvariant := by
  unfold Obligations.StepKeepsTheInvariant
  exact fun s t hs h => ⟨hs.step h, step_L h⟩

theorem State.Inv.resetFor {L : Nat} (h1 : 1 ≤ L) (hL : L ≤ 255) : (State.resetFor L).Inv where
  limbCount := ⟨h1, hL⟩
  size a := by rw [State.resetFor_array, List.length_replicate]; rfl
  status := rfl
  pending := rfl
  shift _ hx := nomatch (show RegVal.unwritten = .value _ from hx)

/-- No program is loaded after reset, so no transaction is left (log 7). -/
theorem State.hostInv_resetFor (L : Nat) : (State.resetFor L).HostInv := rfl

/-- Settles O2, for every limb count of R11 and so for the model's. -/
theorem resetMeetsTheInvariants : Obligations.ResetMeetsTheInvariants := by
  unfold Obligations.ResetMeetsTheInvariants
  have hreset : State.reset.Inv := State.Inv.resetFor (by decide) (by decide)
  exact ⟨fun L h1 hL => ⟨State.Inv.resetFor h1 hL, State.hostInv_resetFor L⟩, hreset, State.hostInv_resetFor _⟩

end Sys2Proof.Machine
end

section
/-! PROOFS. Host programs the assembler accepts never write an unassigned variable, and no step is refused (R83, R91,
logs 12 and 18). -/

namespace Sys2Proof.Machine

variable {s t : State} {vars vars' : List HostVar}

/-! ## The transactions of a program -/

/-- More variables assigned leave a transaction list ready. -/
theorem opsReady_mono {ops : List HostOp} (hsub : vars ⊆ vars') (h : opsReady vars ops = true) :
    opsReady vars' ops = true := by
  induction ops generalizing vars vars' with
  | nil => rfl
  | cons op ops ih =>
    match op with
    | .write _ (.imm _) | .wait | .read _ _ none => exact ih hsub h
    | .write _ (.var x) =>
      obtain ⟨hx, hops⟩ : vars.contains x = true ∧ opsReady vars ops = true := by simpa [opsReady] using h
      have hx' : x ∈ vars' := hsub (List.contains_iff_mem.1 hx)
      simpa [opsReady, hx'] using ih hsub hops
    | .read _ _ (some x) => exact ih (List.cons_subset_cons x hsub) h

/-- Writes of literals, reads into no variable and waits leave the assigned variables as they are. -/
theorem opsReady_append_of_const {ops rest : List HostOp} (hops : ∀ op ∈ ops, ∀ assigned rest,
    opsReady assigned (op :: rest) = opsReady assigned rest) : opsReady vars (ops ++ rest) = opsReady vars rest := by
  induction ops with
  | nil => rfl
  | cons op ops ih =>
    rw [List.cons_append, hops op List.mem_cons_self, ih fun o ho => hops o (List.mem_cons_of_mem op ho)]

/-- A program that reads into each variable before it writes it expands to such transactions, COPY's own included. -/
theorem opsReady_expandFrom {p : List Line} {L line : Nat} (h : varsAssigned vars p = true) :
    opsReady vars (expandFrom L line p) = true := by
  induction p generalizing vars line with
  | nil => rfl
  | cons l p ih =>
    match l with
    | .comment _ | .cmd _ | .wait | .run _ | .wr _ (.imm _) | .rd _ none => exact ih h
    | .wr _ (.var x) =>
      obtain ⟨hx, hp⟩ : vars.contains x = true ∧ varsAssigned vars p = true := by simpa [varsAssigned] using h
      have hrest := ih (line := line + 1) hp
      simp only [expandFrom, expandLine, List.cons_append, List.nil_append, opsReady, hx, hrest, Bool.and_self]
    | .rd _ (some x) => exact ih h
    | .wrw a x =>
      refine (opsReady_append_of_const fun op hop assigned rest => ?_).trans (ih h)
      obtain ⟨i, -, rfl⟩ := List.mem_map.1 hop
      rfl
    | .rdw a =>
      refine (opsReady_append_of_const fun op hop assigned rest => ?_).trans (ih h)
      obtain ⟨i, -, rfl⟩ := List.mem_map.1 hop
      rfl
    | .copy dst src =>
      have hrest := opsReady_mono (List.subset_cons_self (HostVar.tmp line) vars) (ih (line := line + 1) h)
      simpa [expandFrom, expandLine, opsReady] using hrest

/-- What the assembler accepts is ready to run from the start. -/
theorem hostInv_load_of_assemble {p : List Line} {ops : List HostOp} (h : assemble s.L p = some ops) :
    (s.load ops).HostInv := by
  unfold assemble at h
  split at h
  · obtain ⟨-, hvars⟩ := Bool.and_eq_true_iff.1 ‹_›
    obtain rfl := Option.some.inj h
    exact opsReady_expandFrom hvars
  · cases h

/-! ## Every step keeps it -/

theorem State.HostInv.congr (hs : s.HostInv) (h : t.host = s.host) : t.HostInv := by
  unfold State.HostInv
  rw [h]
  exact hs

theorem State.HostInv.withTurns (hs : s.HostInv) (rest : List Turn) : (s.withTurns rest).HostInv := hs.congr rfl

/-- The transactions from the host's position on: the next one and those after it. -/
theorem drop_pos_eq_cons {op : HostOp} (h : s.nextOp = some op) :
    s.host.program.drop s.host.pos = op :: s.host.program.drop (s.host.pos + 1) := by
  obtain ⟨hlt, hget⟩ := List.getElem?_eq_some_iff.1 h
  rw [List.drop_eq_getElem_cons hlt, hget]

theorem State.HostInv.ready {op : HostOp} (hs : s.HostInv) (h : s.nextOp = some op) :
    opsReady (s.host.vars.map Prod.fst) (op :: s.host.program.drop (s.host.pos + 1)) = true := by
  rw [← drop_pos_eq_cons h]
  exact hs

/-- The variables named by an assignment (R84). -/
theorem mem_map_fst_assignVar {x y : HostVar} {w : Word} {vs : List (HostVar × Word)} :
    y ∈ (assignVar (some x) w vs).map Prod.fst ↔ y = x ∨ y ∈ vs.map Prod.fst := by
  by_cases h : y = x <;> simp [assignVar, h]

theorem opsReady_tail_of_not_read {op : HostOp} {ops : List HostOp} (hop : ∀ src mode x, op ≠ .read src mode (some x))
    (h : opsReady vars (op :: ops) = true) : opsReady vars ops = true := by
  match op with
  | .write _ (.imm _) | .wait | .read _ _ none => exact h
  | .write _ (.var x) => exact (Bool.and_eq_true_iff.1 h).2
  | .read src mode (some x) => exact absurd rfl (hop src mode x)

/-- After a transaction that assigns no variable the rest is ready. -/
theorem State.HostInv.advance {op : HostOp} (hs : s.HostInv) (hnext : s.nextOp = some op)
    (hop : ∀ src mode x, op ≠ .read src mode (some x)) : s.advance.HostInv :=
  opsReady_tail_of_not_read hop (hs.ready hnext)

theorem State.HostInv.hostOp {op : HostOp} (hs : s.HostInv) (hnext : s.nextOp = some op)
    (h : hostOp op s = .next t) : t.HostInv := by
  cases op with
  | write dst src =>
    obtain ⟨w, -, ⟨f, -, rfl⟩ | ⟨a, s', -, hw, rfl⟩⟩ := hostWrite_next h
    · exact hs.congr rfl
    · have hhost : s'.host = s.host := by
        obtain ⟨-, ⟨-, rfl⟩ | ⟨n, -, -, rfl⟩⟩ := memWrite_ok hw
        · rfl
        · exact s.setReg_host n w
      refine (hs.advance hnext nofun).congr ?_
      rw [State.advance_host, State.advance_host, hhost]
  | read src mode dst =>
    obtain ⟨f, -, rfl⟩ | ⟨r, w, -, rfl⟩ := hostRead_next h
    · exact hs.congr rfl
    · cases dst with
      | none => exact hs.advance hnext nofun
      | some x =>
        have hready : opsReady (x :: s.host.vars.map Prod.fst) _ = true := hs.ready hnext
        exact opsReady_mono (fun y hy => mem_map_fst_assignVar.2 (List.mem_cons.1 hy)) hready
  | wait =>
    obtain rfl := Host.Outcome.next.inj (hostWait_eq.symm.trans h)
    split
    · exact hs
    · exact hs.advance hnext nofun

theorem State.HostInv.hostStep (hs : s.HostInv) (h : hostStep s = .next t) : t.HostInv := by
  obtain ⟨-, rfl⟩ | ⟨op, hnext, hop⟩ := hostStep_next h
  · exact hs
  · exact hs.hostOp hnext hop

theorem engineStep_host (h : engineStep s = .next t) : t.host = s.host := by
  obtain ⟨w, -, ⟨why, -, rfl⟩ | ⟨i, -, he⟩ | ⟨i, f, -, -, rfl⟩⟩ := engineStep_next h
  · rfl
  · obtain ⟨-, -, -, hhost, -⟩ := exec_next_frame he
    exact hhost
  · rfl

theorem State.HostInv.step (hs : s.HostInv) (h : step s = .next t) : t.HostInv := by
  obtain ⟨-, rfl⟩ | ⟨-, -, rfl | ⟨-, he⟩ | hh⟩ := step_cases h
  · exact hs.congr rfl
  · exact hs.congr rfl
  · exact hs.congr ((engineStep_host he).trans (s.withTurns_host _))
  · exact (hs.withTurns s.sched.tail).hostStep hh

/-! ## No step is refused -/

theorem exists_lookupVar {x : HostVar} {vs : List (HostVar × Word)} (h : x ∈ vs.map Prod.fst) :
    ∃ w, lookupVar x vs = some w := by
  induction vs with
  | nil => cases h
  | cons p vs ih =>
    by_cases hp : p.1 = x
    · exact ⟨p.2, if_pos hp⟩
    · obtain ⟨w, hw⟩ := ih ((List.mem_cons.1 h).resolve_left (Ne.symm hp))
      exact ⟨w, (if_neg hp).trans hw⟩

/-- A write that is ready has a value to move. -/
theorem State.HostInv.exists_valueOf {dst : BusAddr} {src : Source} (hs : s.HostInv)
    (hnext : s.nextOp = some (.write dst src)) : ∃ w, s.host.valueOf src = some w := by
  cases src with
  | imm w => exact ⟨w, rfl⟩
  | var x =>
    obtain ⟨hx, -⟩ := Bool.and_eq_true_iff.1 (hs.ready hnext)
    exact exists_lookupVar (List.contains_iff_mem.1 hx)

theorem hostStep_not_refused (hs : s.HostInv) (r : Refusal) : hostStep s ≠ .refused r := by
  cases hnext : s.host.program[s.host.pos]? with
  | none => simp [hostStep, hnext]
  | some op =>
    simp only [hostStep, hnext, hostOp]
    cases op with
    | write dst src =>
      obtain ⟨w, hw⟩ := hs.exists_valueOf hnext
      simp only [hostWrite, hw]
      split <;> simp
    | read src mode dst =>
      simp only [hostRead]
      split <;> simp
    | wait => simp [hostWait_eq]

/-- A busy machine has a command to run (R35), and no command rule refuses. -/
theorem engineStep_not_refused (hs : s.Inv) (hb : s.status.busy = true) (r : Refusal) :
    engineStep s ≠ .refused r := by
  obtain ⟨w, hw⟩ := Option.isSome_iff_exists.1 (hs.pending.trans hb)
  simp only [engineStep, hw]
  split
  · simp
  · rename_i i hi
    cases he : exec i s with
    | next t => simp [recordFault]
    | fault f => simp [recordFault]
    | refused r' => exact absurd he (exec_not_refused i r')

theorem unlessFaulted_not_refused {turn : State → Host.Outcome State Fault Refusal} {r : Refusal}
    (h : turn s ≠ .refused r) : unlessFaulted turn s ≠ .refused r := by
  unfold unlessFaulted
  split
  · exact h
  · simp

theorem step_not_refused (hs : s.Inv) (hh : s.HostInv) (r : Refusal) : step s ≠ .refused r := by
  have engine {rest} (hb : s.status.busy = true) := engineStep_not_refused (hs.withTurns rest) hb r
  have host {rest} : hostStep (s.withTurns rest) ≠ .refused r := hostStep_not_refused (hh.withTurns rest) r
  unfold step transition
  split
  · refine unlessFaulted_not_refused ?_
    unfold freeTurn
    split
    · exact engineStep_not_refused hs ‹_› r
    · exact hostStep_not_refused hh r
  · refine unlessFaulted_not_refused ?_
    unfold engineTurn
    split
    · exact engine ‹_›
    · simp
  · exact unlessFaulted_not_refused host
  · simp

/-- Settles O59: an accepted program assigns before it writes, a transaction consumes what it was ready for, and a
refusal would need an unassigned variable or a busy machine without a command. -/
theorem assembledProgramsAreNeverRefused : Obligations.AssembledProgramsAreNeverRefused := by
  unfold Obligations.AssembledProgramsAreNeverRefused
  exact ⟨fun s p ops => hostInv_load_of_assemble, fun s t hs h => hs.step h, fun s r hs hh => step_not_refused hs hh r⟩

end Sys2Proof.Machine
end

section
/-! PROOFS. The decoder accepts exactly the command words, and tells the illegal ones apart (R75, R77, R81). -/

namespace Sys2Proof

variable {w w' : Word} {i : Instr}

/-- A command word is determined by its two fields (R75). -/
theorem word_eq_of_fields_eq (hrsv : rsvField w = rsvField w') (hop : opField w = opField w') : w = w' := by
  have hhi : w.toNat / 2 ^ 4 % 2 ^ 60 = w'.toNat / 2 ^ 4 % 2 ^ 60 := by
    simpa [rsvField, Nat.shiftRight_eq_div_pow] using congrArg BitVec.toNat hrsv
  have hlo : w.toNat % 2 ^ 4 = w'.toNat % 2 ^ 4 := by simpa [opField] using congrArg BitVec.toNat hop
  apply BitVec.eq_of_toNat_eq
  omega

/-- The OP values that select no command, and no others (R77, R81). -/
theorem commandOfOp_eq_none_iff (op : BitVec 4) : commandOfOp op = none ↔ op = 0 ∨ 7 ≤ op.toNat :=
  ⟨(by decide : ∀ op : BitVec 4, commandOfOp op = none → op = 0 ∨ 7 ≤ op.toNat) op, commandOfOp_eq_none⟩

/-- The three ways a word decodes, RSV before OP (R80, R81). -/
theorem decode_cases (w : Word) :
    (rsvField w ≠ 0 ∧ decode w = .illegal .reservedNotZero) ∨
      (rsvField w = 0 ∧ (∃ i, opField w = opcode i ∧ decode w = .command i)) ∨
        (rsvField w = 0 ∧ (opField w = 0 ∨ 7 ≤ (opField w).toNat) ∧
          decode w = .illegal (.noSuchCommand (opField w))) := by
  by_cases hr : rsvField w = 0
  · cases hc : commandOfOp (opField w) with
    | some i => exact .inr (.inl ⟨hr, i, commandOfOp_eq_some_iff.1 hc, decode_of_commandOfOp_some hr hc⟩)
    | none => exact .inr (.inr ⟨hr, (commandOfOp_eq_none_iff _).1 hc, decode_of_commandOfOp_none hr hc⟩)
  · exact .inl ⟨hr, decode_of_rsvField_ne_zero hr⟩

theorem decode_eq_command_iff : decode w = .command i ↔ w = encode i := by
  refine ⟨fun h => ?_, fun h => h ▸ decode_encode i⟩
  obtain ⟨-, hd⟩ | ⟨hr, j, hop, hd⟩ | ⟨-, -, hd⟩ := decode_cases w
  · cases h.symm.trans hd
  · obtain rfl := Decoded.command.inj (h.symm.trans hd)
    obtain ⟨-, hrsv, hopc, -⟩ := commandWord i
    exact word_eq_of_fields_eq (hr.trans hrsv.symm) (hop.trans hopc.symm)
  · cases h.symm.trans hd

theorem decode_eq_reservedNotZero_iff : decode w = .illegal .reservedNotZero ↔ rsvField w ≠ 0 := by
  refine ⟨fun h => ?_, decode_of_rsvField_ne_zero⟩
  obtain ⟨hr, -⟩ | ⟨-, j, -, hd⟩ | ⟨-, -, hd⟩ := decode_cases w
  · exact hr
  · cases h.symm.trans hd
  · cases h.symm.trans hd

theorem decode_eq_noSuchCommand_iff {op : BitVec 4} :
    decode w = .illegal (.noSuchCommand op) ↔ rsvField w = 0 ∧ op = opField w ∧ (op = 0 ∨ 7 ≤ op.toNat) := by
  refine ⟨fun h => ?_, ?_⟩
  · obtain ⟨-, hd⟩ | ⟨-, j, -, hd⟩ | ⟨hr, hop, hd⟩ := decode_cases w
    · cases h.symm.trans hd
    · cases h.symm.trans hd
    · cases h.symm.trans hd
      exact ⟨hr, rfl, hop⟩
  · rintro ⟨hr, rfl, hop⟩
    exact decode_of_commandOfOp_none hr (commandOfOp_eq_none hop)

/-- Settles O20, by the three ways a word decodes. -/
theorem decodeAcceptsExactlyTheCommandWords : Obligations.DecodeAcceptsExactlyTheCommandWords := by
  unfold Obligations.DecodeAcceptsExactlyTheCommandWords
  exact ⟨fun _ _ => decode_eq_command_iff, fun _ => decode_eq_reservedNotZero_iff, fun _ _ => decode_eq_noSuchCommand_iff⟩

end Sys2Proof
end

section
/-! PROOFS. The STATUS word, its bits and its values (R23, R24). -/

namespace Sys2Proof.Machine

/-- Settles O6, by the word of each of the 128 records. -/
theorem statusWordFields : Obligations.StatusWordFields := by
  unfold Obligations.StatusWordFields
  rintro ⟨busy, done, err, cause⟩
  revert busy done err cause
  decide

/-- The combinations the hardware holds: after reset, started, and completed with each cause (R23, R24, R180). -/
theorem Status.eq_of_legal {st : Status} (h : st.legal = true) :
    st = ⟨false, false, false, 0⟩ ∨ st = Status.started ∨ ∃ c : BitVec 4, c.toNat ≤ 2 ∧ st = Status.completed c := by
  obtain ⟨busy, done, err, cause⟩ := st
  revert busy done err cause
  decide

/-- Settles O7, by the five combinations. -/
theorem statusWordIsOneOfFive : Obligations.StatusWordIsOneOfFive := by
  unfold Obligations.StatusWordIsOneOfFive
  intro s hinv
  obtain h | h | ⟨c, hc, h⟩ := Status.eq_of_legal hinv.status
  · rw [h]
    decide
  · rw [h]
    decide
  · rw [h]
    clear h
    revert c
    decide

theorem Status.completed_eq (c : BitVec 4) : Status.completed c = ⟨false, true, decide (c ≠ 0), c⟩ := by
  revert c
  decide

/-- The STATUS word of a completion: CAUSE in [7:4], ERR when it is not 0, and DONE (R24). -/
theorem Status.completed_word (c : BitVec 4) : (Status.completed c).word =
    (c.setWidth 64 <<< 4) ||| ((if c = 0 then (0 : Word) else 1) <<< 2) ||| ((1 : Word) <<< 1) := by
  revert c
  decide

/-- Settles O8: the CMD write by its two checks, the completion by its definition. -/
theorem statusProtocol : Obligations.StatusProtocol := by
  unfold Obligations.StatusProtocol
  refine ⟨fun s w => memWrite_cmd, fun s w => memWrite_cmd_busy, by decide, fun s c => ⟨?_, Status.completed_word c⟩⟩
  rw [← Status.completed_eq]
  rfl

end Sys2Proof.Machine
end

section
/-! PROOFS. The window read and written: addresses both ways, read after write, and the width check (R21, R58, R60, R61). -/

namespace Sys2Proof.Machine

variable {s t : State} {a : WordAddr} {w : Word} {n : RegName}

/-- Settles O12: the map inverts `addrOf` on the registers of the instantiation, the scalar rows of R21 among them. -/
theorem addressesRoundTrip : Obligations.AddressesRoundTrip := by
  unfold Obligations.AddressesRoundTrip
  intro L _ hL
  exact ⟨rfl, rfl, rfl, rfl, rfl, rfl, rfl, rfl, rfl, rfl, rfl, rfl, rfl, rfl,
    fun r => regAt_addrOf hL, fun a r => regAt_eq_some hL⟩

/-! ## Read after write -/

/-- A read depends on the limb count, STATUS and the register at the address (R55). -/
theorem memRead_congr (hL : t.L = s.L) (hstatus : t.status = s.status)
    (hreg : ∀ n, regAt s.L a = some (.data n) → t.reg n = s.reg n) : memRead t a = memRead s a := by
  unfold memRead
  rw [hL, hstatus]
  split
  · rfl
  · rfl
  · rfl
  · rfl
  · rw [hreg _ ‹_›]

/-- Writing a register twice leaves the value of the second write alone. -/
theorem State.setReg_setReg_same (s : State) (n : RegName) (w : Word) : (s.setReg n w).setReg n w = s.setReg n w := by
  cases n with
  | scalar m => cases m <;> rfl
  | limb b i => cases b <;> simp [State.setReg, State.setArray, State.array]

/-- An accepted write at a data register's address is a write of that register. -/
theorem memWrite_data_ok (h : regAt s.L a = some (.data n)) (hw : memWrite s a w = .ok t) :
    s.status.busy = false ∧ n.isResult = false ∧ t = s.setReg n w := by
  obtain ⟨hb, ⟨hcmd, -⟩ | ⟨m, hm, hres, ht⟩⟩ := memWrite_ok hw
  · cases h.symm.trans hcmd
  · obtain rfl : n = m := by simpa using h.symm.trans hm
    exact ⟨hb, hres, ht⟩

/-- Settles O15: the window maps no second address to the register written. -/
theorem operandWriteReadsBack : Obligations.OperandWriteReadsBack := by
  unfold Obligations.OperandWriteReadsBack
  intro s t a w n hinv h hw
  obtain ⟨hb, hn, rfl⟩ := memWrite_data_ok h hw
  have ht : regAt (s.setReg n w).L a = some (.data n) := by rw [s.setReg_L, h]
  have hbt : (s.setReg n w).status.busy = false := by rw [s.setReg_status, hb]
  refine ⟨memRead_value ht (fun hbusy => by simp [hn] at hbusy) (hinv.setReg_reg_same h w), fun a' ha' => ?_, ?_⟩
  · refine memRead_congr (s.setReg_L n w) (s.setReg_status n w) fun m hm => s.setReg_reg_other w ?_
    rintro rfl
    obtain ⟨ha, -⟩ := regAt_eq_some hinv.limbCount.2 h
    obtain ⟨hm, -⟩ := regAt_eq_some hinv.limbCount.2 hm
    exact ha' (hm.symm.trans ha)
  · rw [memWrite_operand ht hn hbt, s.setReg_setReg_same]

/-! ## The width check -/

theorem resolve_word_eq_error {size : Nat} (a : WordAddr) (h : size ≠ 8) :
    (BusAddr.word a size).resolve = .error .badWidth := if_neg h

theorem resolve_word (a : WordAddr) : (BusAddr.word a 8).resolve = .ok a := rfl

theorem resolve_byte_eq_error {b : ByteAddr} {size : Nat} (h : b.toNat % 8 ≠ 0 ∨ size ≠ 8) :
    (BusAddr.byte b size).resolve = .error .badWidth :=
  if_neg fun ⟨hsize, hb⟩ => h.elim (absurd hb) (absurd hsize)

/-- Word `a` is byte `8·a` (R58). -/
theorem resolve_byte (a : WordAddr) : (BusAddr.byte (BitVec.ofNat 15 (8 * a.toNat)) 8).resolve = .ok a := by
  have ha : a.toNat < 2 ^ 12 := a.isLt
  have hb : (BitVec.ofNat 15 (8 * a.toNat)).toNat = 8 * a.toNat := by
    rw [BitVec.toNat_ofNat]
    exact Nat.mod_eq_of_lt (by omega)
  simp [BusAddr.resolve, hb]

theorem busWrite_eq_error_of_resolve {d : BusAddr} {f : Fault} (h : d.resolve = .error f) (s : State) (w : Word) :
    busWrite s d w = .error f := by
  simp [busWrite, h]

theorem busRead_eq_error_of_resolve {d : BusAddr} {f : Fault} (h : d.resolve = .error f) (s : State) :
    busRead s d = .error f := by
  simp [busRead, h]

/-- Settles O16, by the width check of each kind of address. -/
theorem onlyWholeWordAccesses : Obligations.OnlyWholeWordAccesses := by
  unfold Obligations.OnlyWholeWordAccesses
  exact ⟨fun a _ => resolve_word_eq_error a, fun a => ⟨resolve_word a, resolve_byte a⟩,
    fun _ _ => resolve_byte_eq_error,
    fun s _ w h => ⟨busWrite_eq_error_of_resolve h s w, busRead_eq_error_of_resolve h s⟩⟩

end Sys2Proof.Machine
end

section
/-! PROOFS. The step, one equation per turn, and what each turn can change (R20, R61, R80, R84, R183). -/

namespace Sys2Proof.Machine

variable {s t : State} {rest : List Turn} {n : RegName}

/-! ## The step by turn -/

theorem step_free (hf : s.fault = none) (h : s.sched = []) : step s = freeTurn s := by
  simp [step, transition, h, unlessFaulted, hf]

theorem step_engine (hf : s.fault = none) (h : s.sched = .engine :: rest) : step s = engineTurn (s.withTurns rest) := by
  simp [step, transition, h, unlessFaulted, hf]

theorem step_host (hf : s.fault = none) (h : s.sched = .host :: rest) : step s = hostStep (s.withTurns rest) := by
  simp [step, transition, h, unlessFaulted, hf]

theorem State.withTurns_nil (h : s.sched = []) : s.withTurns [] = s := by
  rw [← h]
  rfl

/-- Where the engine moves next, a step of a busy machine is its engine step with the turn taken off. -/
theorem step_busy (hf : s.fault = none) (hb : s.status.busy = true) (h : s.sched = [] ∨ ∃ rest, s.sched = .engine :: rest) :
    step s = engineStep (s.withTurns s.sched.tail) := by
  obtain h | ⟨rest, h⟩ := h
  · rw [step_free hf h, h, List.tail_nil, State.withTurns_nil h]
    exact if_pos hb
  · rw [step_engine hf h, h]
    exact if_pos hb

/-- In a faulted state only the reset input is enabled (R183). -/
theorem step_of_faulted {f : Fault} (hf : s.fault = some f) (h : s.sched.head? ≠ some .reset) : step s = .fault f := by
  cases hs : s.sched with
  | nil => simp [step, transition, hs, unlessFaulted, hf]
  | cons x rest =>
    cases x with
    | engine => simp [step, transition, hs, unlessFaulted, hf]
    | host => simp [step, transition, hs, unlessFaulted, hf]
    | reset => simp [hs] at h

theorem engineStep_command {w : Word} {i : Instr} (hp : s.pending = some w) (hd : decode w = .command i) :
    engineStep s = recordFault s (exec i s) := by
  simp [engineStep, hp, hd]

theorem hostStep_op {op : HostOp} (h : s.nextOp = some op) : hostStep s = hostOp op s := by
  have h : s.host.program[s.host.pos]? = some op := h
  simp [hostStep, h]

theorem hostStep_of_length_le (h : s.host.program.length ≤ s.host.pos) : hostStep s = .next s := by
  simp [hostStep, List.getElem?_eq_none h]

/-- Settles O22: the step is the engine step, and the engine step the rule with its fault recorded. -/
theorem stepRunsTheDecodedCommand : Obligations.StepRunsTheDecodedCommand := by
  unfold Obligations.StepRunsTheDecodedCommand
  intro s w i hf hb hp hd hs
  have hstep : step s = recordFault (s.withTurns s.sched.tail) (exec i (s.withTurns s.sched.tail)) :=
    (step_busy hf hb hs).trans (engineStep_command hp hd)
  exact ⟨fun t ht => hstep.trans (congrArg _ ht), fun f hfault => hstep.trans (congrArg _ hfault)⟩

/-- Settles O23: an engine's turn asks for BUSY first. -/
theorem engineMovesOnlyWhenBusy : Obligations.EngineMovesOnlyWhenBusy := by
  unfold Obligations.EngineMovesOnlyWhenBusy
  intro s rest hf hb h
  rw [step_engine hf h]
  exact if_neg (by simp [hb])

/-- Settles O5: `resetEngine` is the step, and the host and the turns are no part of the engine. -/
theorem resetKeepsTheHost : Obligations.ResetKeepsTheHost := by
  unfold Obligations.ResetKeepsTheHost
  exact fun s rest h => ⟨_, step_reset h, rfl, rfl⟩

/-! ## Faults (R183) -/

theorem engineStep_fault {f : Fault} (h : engineStep s = .next t) (hf : s.fault = none) (ht : t.fault = some f) :
    t = s.raise f := by
  obtain ⟨w, -, ⟨why, -, rfl⟩ | ⟨i, -, he⟩ | ⟨i, g, -, -, rfl⟩⟩ := engineStep_next h
  · cases hf.symm.trans ht
  · obtain ⟨-, -, hfault, -⟩ := exec_next_frame he
    cases (hfault.trans hf).symm.trans ht
  · obtain rfl := Option.some.inj ht
    rfl

theorem memWrite_fault {a : WordAddr} {w : Word} (h : memWrite s a w = .ok t) : t.fault = s.fault := by
  obtain ⟨-, ⟨-, rfl⟩ | ⟨n, -, -, rfl⟩⟩ := memWrite_ok h
  · rfl
  · exact s.setReg_fault n w

/-- A host turn leaves the engine alone, or faults, or is an accepted write (R56, R60, R84, R92). -/
theorem hostStep_cases (h : hostStep s = .next t) :
    (t.fault = s.fault ∧ t.status = s.status ∧ ∀ n, t.reg n = s.reg n) ∨ (∃ f, t = s.raise f) ∨
      ∃ dst src a w s', s.nextOp = some (.write dst src) ∧ dst.resolve = .ok a ∧ s.host.valueOf src = some w ∧
        memWrite s a w = .ok s' ∧ t = s'.advance := by
  obtain ⟨-, rfl⟩ | ⟨op, hnext, hop⟩ := hostStep_next h
  · exact .inl ⟨rfl, rfl, fun _ => rfl⟩
  · cases op with
    | write dst src =>
      obtain ⟨w, hw, ⟨f, -, rfl⟩ | ⟨a, s', ha, hs', rfl⟩⟩ := hostWrite_next hop
      · exact .inr (.inl ⟨f, rfl⟩)
      · exact .inr (.inr ⟨dst, src, a, w, s', hnext, ha, hw, hs', rfl⟩)
    | read src mode dst =>
      obtain ⟨f, -, rfl⟩ | ⟨r, w, -, rfl⟩ := hostRead_next hop
      · exact .inr (.inl ⟨f, rfl⟩)
      · exact .inl ⟨rfl, rfl, by rintro (⟨⟨⟩⟩ | ⟨⟨⟩, i⟩) <;> rfl⟩
    | wait =>
      obtain rfl := Host.Outcome.next.inj (hostWait_eq.symm.trans hop)
      split
      · exact .inl ⟨rfl, rfl, fun _ => rfl⟩
      · exact .inl ⟨rfl, rfl, s.advance_reg⟩

theorem hostStep_fault {f : Fault} (h : hostStep s = .next t) (hf : s.fault = none) (ht : t.fault = some f) :
    t = s.raise f := by
  obtain ⟨hfault, -⟩ | ⟨g, rfl⟩ | ⟨dst, src, a, w, s', -, -, -, hw, rfl⟩ := hostStep_cases h
  · cases (hfault.trans hf).symm.trans ht
  · obtain rfl := Option.some.inj ht
    rfl
  · cases ((memWrite_fault hw).trans hf).symm.trans ht

/-- Settles O24: a step asks for the fault first, and a step that faults is `raise` on the state with the turn taken off. -/
theorem faultedStateIsStuck : Obligations.FaultedStateIsStuck := by
  unfold Obligations.FaultedStateIsStuck
  refine ⟨fun s f => rfl, fun s f hf => ⟨by simp [State.final, hf], step_of_faulted hf, fun t h => ?_⟩,
    fun s t f hf h ht => ?_⟩
  · obtain ⟨hr, rfl⟩ | ⟨-, hnone, -⟩ := step_cases h
    · exact ⟨hr, State.resetEngine_fault _⟩
    · cases hnone.symm.trans hf
  · obtain ⟨-, rfl⟩ | ⟨-, -, rfl | ⟨-, he⟩ | hh⟩ := step_cases h
    · cases (State.resetEngine_fault _).symm.trans ht
    · cases hf.symm.trans ht
    · exact engineStep_fault he hf ht
    · exact hostStep_fault hh hf ht

/-! ## Who changes what (R26, R27, R190) -/

/-- CMD is at address 0 and nowhere else (R51). -/
theorem State.Inv.eq_zero_of_regAt_cmd {a : WordAddr} (hs : s.Inv) (h : regAt s.L a = some .cmd) : a = 0x000 :=
  (regAt_eq_some hs.limbCount.2 h).1.symm

/-- Settles O10: an error shows BUSY = 0, so no engine step runs, and of the host's writes only the one to CMD changes
STATUS. -/
theorem errorStaysUntilTheNextStart : Obligations.ErrorStaysUntilTheNextStart := by
  unfold Obligations.ErrorStaysUntilTheNextStart
  intro s t hinv h herr hne
  obtain ⟨hr, -⟩ | ⟨-, -, rfl | ⟨hb, -⟩ | hh⟩ := step_cases h
  · exact .inl hr
  · exact absurd rfl hne
  · obtain hst | hst | ⟨c, -, hst⟩ := Status.eq_of_legal hinv.status
    · simp [hst] at hb
    · simp [hst, Status.started] at herr
    · simp [hst, Status.completed] at hb
  · obtain ⟨-, hst, -⟩ | ⟨f, rfl⟩ | ⟨dst, src, a, w, s', hnext, ha, hw, hmem, rfl⟩ := hostStep_cases hh
    · exact absurd hst hne
    · exact absurd rfl hne
    · obtain ⟨-, ⟨hcmd, rfl⟩ | ⟨n, -, -, rfl⟩⟩ := memWrite_ok hmem
      · obtain rfl := hinv.eq_zero_of_regAt_cmd hcmd
        exact .inr ⟨dst, src, w, hnext, ha, hw, rfl, rfl⟩
      · exact absurd (State.setReg_status _ n w) hne

/-- An engine step changes no register but a result of the pending command, when that completes with no error (R39). -/
theorem engineStep_reg_ne (hs : s.Inv) (h : engineStep s = .next t) (hne : t.reg n ≠ s.reg n) :
    ∃ i, s.pending = some (encode i) ∧ n ∈ resultRegs s.L i ∧ t.status = doneStatus := by
  obtain ⟨w, hp, ⟨why, -, rfl⟩ | ⟨i, hi, he⟩ | ⟨i, f, -, -, rfl⟩⟩ := engineStep_next h
  · exact absurd (s.complete_reg _ n) hne
  · obtain ⟨hother, -, herr, -⟩ := commandWritesExactlyItsResults s t i hs he
    refine ⟨i, decode_eq_command_iff.1 hi ▸ hp, by_contra fun hn => hne (hother n hn), ?_⟩
    obtain hdone | ⟨-, hstatus⟩ := exec_next_status he
    · exact hdone
    · exact absurd (herr (by simp [hstatus, errorStatus]) n) hne
  · exact absurd (s.raise_reg f n) hne

/-- A host turn changes no register but the operand register it writes, while `BUSY = 0` (R26, R56). -/
theorem hostStep_reg_ne (hs : s.Inv) (h : hostStep s = .next t) (hne : t.reg n ≠ s.reg n) :
    s.status.busy = false ∧ n.isResult = false ∧ ∃ dst src w, s.nextOp = some (.write dst src) ∧
      dst.resolve = .ok (addrOf (.data n)) ∧ s.host.valueOf src = some w ∧ t.reg n = .value w := by
  obtain ⟨-, -, hreg⟩ | ⟨f, rfl⟩ | ⟨dst, src, a, w, s', hnext, ha, hw, hmem, rfl⟩ := hostStep_cases h
  · exact absurd (hreg n) hne
  · exact absurd (s.raise_reg f n) hne
  · obtain ⟨hb, ⟨-, rfl⟩ | ⟨m, hm, hres, rfl⟩⟩ := memWrite_ok hmem
    · exact absurd (by simp) hne
    · obtain rfl : n = m := by_contra fun hnm => hne (by rw [State.advance_reg, s.setReg_reg_other w hnm])
      obtain ⟨haddr, -⟩ := regAt_eq_some hs.limbCount.2 hm
      refine ⟨hb, hres, dst, src, w, hnext, haddr ▸ ha, hw, ?_⟩
      rw [State.advance_reg, hs.setReg_reg_same hm w]

/-- The result registers of every command are result registers of the window (R27, R79). -/
theorem isResult_of_mem_resultRegs {L : Nat} {i : Instr} : ∀ n ∈ resultRegs L i, n.isResult = true := by
  cases i <;>
    simp [resultRegs, limbRegs, or_imp, forall_and, RegName.isResult, ScalarName.isResult, ArrayName.isResult]

/-- Settles O37: of the actions of a step only the host's accepted write changes an operand register. -/
theorem onlyHostWritesChangeOperands : Obligations.OnlyHostWritesChangeOperands := by
  unfold Obligations.OnlyHostWritesChangeOperands
  intro s t n hinv h hn hne
  rw [← s.withTurns_reg s.sched.tail n] at hne
  have hinv' := hinv.withTurns s.sched.tail
  obtain ⟨hr, -⟩ | ⟨-, -, rfl | ⟨-, he⟩ | hh⟩ := step_cases h
  · exact .inl hr
  · exact absurd rfl hne
  · obtain ⟨i, -, hi, -⟩ := engineStep_reg_ne hinv' he hne
    cases hn.symm.trans (isResult_of_mem_resultRegs n hi)
  · obtain ⟨hb, -, hwrite⟩ := hostStep_reg_ne hinv' hh hne
    exact .inr ⟨hb, hwrite⟩

/-- Settles O38: of the actions of a step only the engine's completion changes a result register. -/
theorem onlyCommandsChangeResults : Obligations.OnlyCommandsChangeResults := by
  unfold Obligations.OnlyCommandsChangeResults
  intro s t n hinv h hn hne
  rw [← s.withTurns_reg s.sched.tail n] at hne
  have hinv' := hinv.withTurns s.sched.tail
  obtain ⟨hr, -⟩ | ⟨-, -, rfl | ⟨hb, he⟩ | hh⟩ := step_cases h
  · exact .inl hr
  · exact absurd rfl hne
  · have hcommand := engineStep_reg_ne hinv' he hne
    exact .inr ⟨hb, hcommand⟩
  · obtain ⟨-, hop, -⟩ := hostStep_reg_ne hinv' hh hne
    cases hn.symm.trans hop

end Sys2Proof.Machine
end

section
/-! PROOFS. One turn of the host: WAIT, a read line, a forbidden access, and the end of a run (R57, R84, R86, R92, R210). -/

namespace Sys2Proof.Machine

variable {s t : State} {a : WordAddr} {r : WindowReg} {w : Word}

/-! ## Accesses with the turn taken off the list -/

@[simp] theorem memRead_withTurns (s : State) (rest : List Turn) (a : WordAddr) :
    memRead (s.withTurns rest) a = memRead s a :=
  memRead_congr rfl rfl fun n _ => s.withTurns_reg rest n

theorem busRead_withTurns (s : State) (rest : List Turn) (d : BusAddr) : busRead (s.withTurns rest) d = busRead s d := by
  simp only [busRead, memRead_withTurns, State.withTurns_L]

theorem State.setReg_withTurns (s : State) (rest : List Turn) (n : RegName) (w : Word) :
    (s.withTurns rest).setReg n w = (s.setReg n w).withTurns rest := by
  rcases n with ⟨⟨⟩⟩ | ⟨⟨⟩, i⟩ <;> rfl

/-- A write neither looks at the turns left nor changes them. -/
theorem memWrite_withTurns (s : State) (rest : List Turn) (a : WordAddr) (w : Word) :
    memWrite (s.withTurns rest) a w = (memWrite s a w).map fun t => t.withTurns rest := by
  simp only [memWrite, State.withTurns_L, State.withTurns_status, State.setReg_withTurns]
  split
  · rfl
  · rw [apply_ite (Except.map _)]
    rfl
  · rfl
  · rfl
  · rw [apply_ite (Except.map _), apply_ite (Except.map _)]
    rfl

/-- A forbidden write is forbidden whatever turns are left. -/
theorem memWrite_withTurns_eq_error {f : Fault} (rest : List Turn) (h : memWrite s a w = .error f) :
    memWrite (s.withTurns rest) a w = .error f := by
  rw [memWrite_withTurns, h]
  rfl

theorem busWrite_withTurns_eq_error {f : Fault} {d : BusAddr} (rest : List Turn) (h : busWrite s d w = .error f) :
    busWrite (s.withTurns rest) d w = .error f := by
  unfold busWrite at h ⊢
  split at h
  · exact h
  · exact memWrite_withTurns_eq_error rest h

theorem busRead_word (hr : regAt s.L a = some r) (hw : memRead s a = .ok w) : busRead s (.word a 8) = .ok (r, w) := by
  simp [busRead, resolve_word, hr, hw]

theorem hostRead_ok {src : BusAddr} {mode : TraceMode} {dst : Option HostVar} (h : busRead s src = .ok (r, w)) :
    hostRead src mode dst s = .next
      { s with
        host :=
          { s.host with
            pos := s.host.pos + 1
            vars := assignVar dst w s.host.vars
            trace := recordRead mode r w s.host.trace } } := by
  simp [hostRead, h]

theorem hostRead_error {src : BusAddr} {mode : TraceMode} {dst : Option HostVar} {f : Fault}
    (h : busRead s src = .error f) : hostRead src mode dst s = .next (s.raise f) := by
  simp [hostRead, h]

theorem hostWrite_error {dst : BusAddr} {src : Source} {f : Fault} (hv : s.host.valueOf src = some w)
    (h : busWrite s dst w = .error f) : hostWrite dst src s = .next (s.raise f) := by
  simp [hostWrite, hv, h]

/-! ## The host's variables (R84) -/

theorem lookupVar_filter_ne {x y : HostVar} (h : y ≠ x) (vs : List (HostVar × Word)) :
    lookupVar y (vs.filter fun p => p.1 != x) = lookupVar y vs := by
  induction vs with
  | nil => rfl
  | cons p vs ih =>
    obtain ⟨z, v⟩ := p
    by_cases hz : z = x
    · rw [List.filter_cons_of_neg (by simp [hz]), ih]
      exact (if_neg fun e => h (e.symm.trans hz)).symm
    · rw [List.filter_cons_of_pos (by simp [hz])]
      simp only [lookupVar, ih]

theorem lookupVar_assignVar_same (x : HostVar) (w : Word) (vs : List (HostVar × Word)) :
    lookupVar x (assignVar (some x) w vs) = some w := if_pos rfl

theorem lookupVar_assignVar_other {dst : Option HostVar} {x : HostVar} (h : dst ≠ some x) (w : Word)
    (vs : List (HostVar × Word)) : lookupVar x (assignVar dst w vs) = lookupVar x vs := by
  cases dst with
  | none => rfl
  | some y =>
    have hyx : y ≠ x := fun e => h (congrArg some e)
    exact (if_neg hyx).trans (lookupVar_filter_ne hyx.symm vs)

/-! ## The turns -/

theorem step_host_op {op : HostOp} {rest : List Turn} (hf : s.fault = none) (hs : s.sched = .host :: rest)
    (hnext : s.nextOp = some op) : step s = hostOp op (s.withTurns rest) :=
  (step_host hf hs).trans (hostStep_op (s := s.withTurns rest) hnext)

/-- Settles O51: the read of STATUS in WAIT returns BUSY as its bit 0. -/
theorem waitRepeatsWhileBusy : Obligations.WaitRepeatsWhileBusy := by
  unfold Obligations.WaitRepeatsWhileBusy
  intro s rest hf hs hnext
  have hstep : step s = .next (if s.status.busy then s.withTurns rest else (s.withTurns rest).advance) := by
    rw [step_host_op hf hs hnext]
    exact hostWait_eq
  exact ⟨fun hb => hstep.trans (congrArg _ (if_pos hb)), fun hb => hstep.trans (congrArg _ (if_neg (by simp [hb])))⟩

/-- Settles O52: the step is the read transaction, whose record is one pair of the trace. -/
theorem readLineEntersTheTrace : Obligations.ReadLineEntersTheTrace := by
  unfold Obligations.ReadLineEntersTheTrace
  intro s rest a r w dst hf hs hnext hr hw
  have hbus : busRead (s.withTurns rest) (.word a 8) = .ok (r, w) := by
    rw [busRead_withTurns, busRead_word hr hw]
  refine ⟨_, (step_host_op hf hs hnext).trans (hostRead_ok hbus),
    rfl, rfl, rfl, ?_, fun x hx => lookupVar_assignVar_other hx w _, rfl⟩
  rintro x rfl
  exact lookupVar_assignVar_same x w _

/-- Settles O53: the access faults with the turn taken off too, and the fault is recorded. -/
theorem forbiddenAccessFaults : Obligations.ForbiddenAccessFaults := by
  unfold Obligations.ForbiddenAccessFaults
  intro s rest f hf hs
  refine ⟨fun dst src w hnext hw h => ?_, fun src mode dst hnext h => ?_⟩
  · rw [step_host_op hf hs hnext]
    exact hostWrite_error (s := s.withTurns rest) hw (busWrite_withTurns_eq_error rest h)
  · rw [step_host_op hf hs hnext]
    exact hostRead_error ((busRead_withTurns s rest src).trans h)

/-- Settles O60: neither agent has anything left to do. -/
theorem finalStatesStay : Obligations.FinalStatesStay := by
  unfold Obligations.FinalStatesStay
  intro s
  have hfinal : s.final = true ↔ s.host.program.length ≤ s.host.pos ∧ s.status.busy = false ∧ s.fault = none := by
    simp [State.final, and_assoc]
  refine ⟨hfinal, fun h hs => ?_⟩
  obtain ⟨hpos, hb, hf⟩ := hfinal.1 h
  rw [step_free hf hs, freeTurn, if_neg (by simp [hb]), hostStep_of_length_le hpos]

end Sys2Proof.Machine
end

section
/-! PROOFS. The 3-by-2 commands RECIP32 and DIV32: their preconditions, results and rules (R130, R131, R135, R137, R138). -/

namespace Sys2Proof.Machine

variable {s : State}

/-! ## Preconditions and results -/

/-- A divisor with a normalized top limb is normalized (R16). -/
theorem le_pair {d1 : Word} (h : 2 ^ 63 ≤ d1.toNat) (d0 : Word) : 2 ^ 63 * B ≤ pair d1 d0 :=
  (Nat.mul_le_mul_right B h).trans (Nat.le_add_right _ _)

theorem mul_B_add_lt {a b : Nat} (ha : a < B) (hb : b < B) : a * B + b < B ^ 2 :=
  calc a * B + b < (a + 1) * B := by rw [Nat.add_one_mul]; exact Nat.add_lt_add_left hb _
    _ ≤ B * B := Nat.mul_le_mul_right _ ha
    _ = B ^ 2 := (pow_two B).symm

theorem pair_lt (a b : Word) : pair a b < B ^ 2 := mul_B_add_lt a.isLt b.isLt

/-- The reciprocal of a normalized two-limb divisor is a limb (R133). -/
theorem recip32_lt {D : Nat} (hD : 2 ^ 63 * B ≤ D) : recip32 D < B := by
  have hquot : (B ^ 3 - 1) / D < B + B := Nat.div_lt_of_lt_mul <|
    calc B ^ 3 - 1 < 2 ^ 63 * B * (B + B) := by decide
      _ ≤ D * (B + B) := Nat.mul_le_mul_right _ hD
  have hB : 0 < B := by decide
  unfold recip32
  omega

theorem div32Pre_eq_true_iff {o : Div32Operands} : div32Pre o = true ↔
    2 ^ 63 ≤ o.d1.toNat ∧ pair o.u2 o.u1 < pair o.d1 o.d0 ∧ o.v.toNat = recip32 (pair o.d1 o.d0) := by
  simp [div32Pre, normalized_eq_true_iff, and_assoc]

theorem div32Pre_eq_false_iff {o : Div32Operands} : div32Pre o = false ↔
    o.d1.toNat < 2 ^ 63 ∨ pair o.d1 o.d0 ≤ pair o.u2 o.u1 ∨ o.v.toNat ≠ recip32 (pair o.d1 o.d0) := by
  rw [← Bool.not_eq_true, div32Pre_eq_true_iff, not_and_or, not_and_or, Nat.not_le, Nat.not_lt]

theorem triple_eq (u2 u1 u0 : Word) : triple u2 u1 u0 = pair u2 u1 * B + u0.toNat := by
  unfold triple pair
  ring

/-- A dividend whose high limbs are below the divisor has a one-limb quotient (R138). -/
theorem triple_div_lt {u2 u1 : Word} {D : Nat} (u0 : Word) (h : pair u2 u1 < D) : triple u2 u1 u0 / D < B := by
  refine Nat.div_lt_of_lt_mul ?_
  calc triple u2 u1 u0 < (pair u2 u1 + 1) * B := by
        rw [triple_eq, Nat.add_one_mul]; exact Nat.add_lt_add_left u0.isLt _
    _ ≤ D * B := Nat.mul_le_mul_right _ h

theorem toNat_limbOf_zero (x : Nat) : (limbOf 0 x).toNat = x % B := by
  rw [limbOf, pow_zero, Nat.div_one, BitVec.toNat_ofNat]

theorem toNat_limbOf_one {x : Nat} (h : x < B ^ 2) : (limbOf 1 x).toNat = x / B := by
  rw [limbOf, pow_one]
  exact toNat_ofNat_of_lt (Nat.div_lt_of_lt_mul (pow_two B ▸ h))

/-! ## RECIP32 -/

/-- An unwritten Y1 or Y0 leaves RECIP32 without operands (R78, R80). -/
theorem recip32Operands_eq_none (h : s.y1 = .unwritten ∨ s.y0 = .unwritten) : recip32Operands s = none := by
  refine Option.eq_none_iff_forall_ne_some.2 fun o ho => ?_
  obtain ⟨hy1, hy0⟩ := recip32Operands_eq_some.1 ho
  simp [hy1, hy0] at h

theorem execRecip32_eq_fault_unwrittenOperand (h : recip32Operands s = none) :
    execRecip32 s = .fault .unwrittenOperand := by
  simp [execRecip32, withOperands, h]

theorem execRecip32_eq_fault_precondition {o : Recip32Operands} (ho : recip32Operands s = some o)
    (hd : normalized o.d1 = false) : execRecip32 s = .fault .precondition := by
  simp [execRecip32, withOperands, requirePrecondition, ho, hd]

theorem execRecip32_eq_next {d1 d0 : Word} (ho : recip32Operands s = some ⟨d1, d0⟩) (hd : normalized d1 = true) :
    execRecip32 s =
      .next (State.complete { s with rcp := .value (BitVec.ofNat 64 (recip32 (pair d1 d0))) } causeNone) := by
  simp [execRecip32, withOperands, requirePrecondition, ho, hd]

/-- Settles O28: RCP takes the exact reciprocal, which fits a limb when Y1 is normalized. -/
theorem recip32Rule : Obligations.Recip32Rule := by
  unfold Obligations.Recip32Rule
  refine ⟨rfl, fun s h => execRecip32_eq_fault_unwrittenOperand (recip32Operands_eq_none h), fun s d1 d0 hy1 hy0 => ?_⟩
  have ho : recip32Operands s = some ⟨d1, d0⟩ := recip32Operands_eq_some.2 ⟨hy1, hy0⟩
  refine ⟨fun hd => execRecip32_eq_fault_precondition ho (normalized_eq_false_iff.2 hd), fun hd => ?_⟩
  refine ⟨BitVec.ofNat 64 (recip32 (pair d1 d0)), ?_, execRecip32_eq_next ho (normalized_eq_true_iff.2 hd)⟩
  exact toNat_ofNat_of_lt (recip32_lt (le_pair hd d0))

/-! ## DIV32 -/

/-- An unwritten X2, X1, X0, Y1, Y0 or VR leaves DIV32 without operands (R78, R80). -/
theorem div32Operands_eq_none (h : s.x2 = .unwritten ∨ s.x1 = .unwritten ∨ s.x0 = .unwritten ∨ s.y1 = .unwritten ∨
    s.y0 = .unwritten ∨ s.vr = .unwritten) : div32Operands s = none := by
  refine Option.eq_none_iff_forall_ne_some.2 fun o ho => ?_
  obtain ⟨hx2, hx1, hx0, hy1, hy0, hvr⟩ := div32Operands_eq_some.1 ho
  simp [hx2, hx1, hx0, hy1, hy0, hvr] at h

theorem execDiv32_eq_fault_unwrittenOperand (h : div32Operands s = none) : execDiv32 s = .fault .unwrittenOperand := by
  simp [execDiv32, withOperands, h]

theorem execDiv32_eq_fault_precondition {o : Div32Operands} (ho : div32Operands s = some o)
    (hpre : div32Pre o = false) : execDiv32 s = .fault .precondition := by
  simp [execDiv32, withOperands, requirePrecondition, ho, hpre]

theorem execDiv32_eq_next {u2 u1 u0 d1 d0 v : Word} (ho : div32Operands s = some ⟨u2, u1, u0, d1, d0, v⟩)
    (hpre : div32Pre ⟨u2, u1, u0, d1, d0, v⟩ = true) : execDiv32 s = .next (State.complete
      { s with
        qs := .value (BitVec.ofNat 64 (triple u2 u1 u0 / pair d1 d0))
        rs0 := .value (limbOf 0 (triple u2 u1 u0 % pair d1 d0))
        rs1 := .value (limbOf 1 (triple u2 u1 u0 % pair d1 d0)) } causeNone) := by
  simp [execDiv32, withOperands, requirePrecondition, udivrem32, ho, hpre]

/-- Settles O29: under R138 the quotient fits a limb, and the remainder, below the divisor, fits the two of RS1 and RS0. -/
theorem div32Rule : Obligations.Div32Rule := by
  unfold Obligations.Div32Rule
  refine ⟨rfl, fun s h => execDiv32_eq_fault_unwrittenOperand (div32Operands_eq_none h), ?_⟩
  rintro s u2 u1 u0 d1 d0 v _ _ hx2 hx1 hx0 hy1 hy0 hvr rfl rfl
  have ho : div32Operands s = some ⟨u2, u1, u0, d1, d0, v⟩ :=
    div32Operands_eq_some.2 ⟨hx2, hx1, hx0, hy1, hy0, hvr⟩
  refine ⟨fun h => execDiv32_eq_fault_precondition ho (div32Pre_eq_false_iff.2 h), fun hd hu hv => ?_⟩
  have hrem : triple u2 u1 u0 % pair d1 d0 < B ^ 2 := (Nat.mod_lt _ (Nat.zero_lt_of_lt hu)).trans (pair_lt d1 d0)
  exact ⟨BitVec.ofNat 64 (triple u2 u1 u0 / pair d1 d0), limbOf 0 (triple u2 u1 u0 % pair d1 d0),
    limbOf 1 (triple u2 u1 u0 % pair d1 d0), toNat_ofNat_of_lt (triple_div_lt u0 hu), toNat_limbOf_zero _,
    toNat_limbOf_one hrem, execDiv32_eq_next ho (div32Pre_eq_true_iff.2 ⟨hd, hu, hv⟩)⟩

end Sys2Proof.Machine
end

section
/-! PROOFS. A command's outcome from its operand registers: written or not, the precondition, and nothing else (R36, R78,
R80, R184, R185). -/

namespace Sys2Proof.Machine

variable {s s' t t' : State} {i : Instr} {n : RegName}

/-! ## Unwritten operands -/

/-- Settles O31: each register of R78's row is one the operand assembly needs. -/
theorem unwrittenOperandFaults : Obligations.UnwrittenOperandFaults := by
  unfold Obligations.UnwrittenOperandFaults
  intro s i n hinv hn hu
  have wide (h : n ∈ limbRegs .u s.L ++ limbRegs .v s.L) : wideOperands s = none := by
    refine hinv.wideOperands_eq_none ?_
    simp only [List.mem_append, mem_limbRegs] at h
    obtain ⟨k, hk, rfl⟩ | ⟨k, hk, rfl⟩ := h
    · exact ⟨k, hk, .inl hu⟩
    · exact ⟨k, hk, .inr hu⟩
  cases i with
  | norm => exact execNorm_eq_fault_unwrittenOperand (wide hn)
  | divide => exact execDivide_eq_fault_unwrittenOperand (wide hn)
  | recip21 =>
    obtain rfl : n = .scalar .y0 := by simpa [operandRegs] using hn
    exact execRecip21_eq_fault_unwrittenOperand hu
  | div21 =>
    refine execDiv21_eq_fault_unwrittenOperand (div21Operands_eq_none ?_)
    have hn : n = .scalar .x1 ∨ n = .scalar .x0 ∨ n = .scalar .y0 ∨ n = .scalar .vr := by simpa [operandRegs] using hn
    obtain rfl | rfl | rfl | rfl := hn
    exacts [.inl hu, .inr (.inl hu), .inr (.inr (.inl hu)), .inr (.inr (.inr hu))]
  | recip32 =>
    refine execRecip32_eq_fault_unwrittenOperand (recip32Operands_eq_none ?_)
    have hn : n = .scalar .y1 ∨ n = .scalar .y0 := by simpa [operandRegs] using hn
    obtain rfl | rfl := hn
    exacts [.inl hu, .inr hu]
  | div32 =>
    refine execDiv32_eq_fault_unwrittenOperand (div32Operands_eq_none ?_)
    have hn : n = .scalar .x2 ∨ n = .scalar .x1 ∨ n = .scalar .x0 ∨ n = .scalar .y1 ∨ n = .scalar .y0 ∨
        n = .scalar .vr := by simpa [operandRegs] using hn
    obtain rfl | rfl | rfl | rfl | rfl | rfl := hn
    exacts [.inl hu, .inr (.inl hu), .inr (.inr (.inl hu)), .inr (.inr (.inr (.inl hu))),
      .inr (.inr (.inr (.inr (.inl hu)))), .inr (.inr (.inr (.inr (.inr hu))))]

/-! ## Written operands: the precondition decides -/

theorem RegVal.exists_value {x : RegVal} (h : x ≠ .unwritten) : ∃ w, x = .value w := by
  cases x with
  | unwritten => exact absurd rfl h
  | value w => exact ⟨w, rfl⟩

theorem exists_eq_written {xs : List RegVal} (h : .unwritten ∉ xs) : ∃ ws, xs = written ws := by
  induction xs with
  | nil => exact ⟨[], rfl⟩
  | cons x xs ih =>
    obtain ⟨hx, hxs⟩ := not_or.1 (mt List.mem_cons.2 h)
    obtain ⟨w, rfl⟩ := RegVal.exists_value (Ne.symm hx)
    obtain ⟨ws, rfl⟩ := ih hxs
    exact ⟨w :: ws, rfl⟩

/-- An array all of whose registers are written holds a limb list of the array's size. -/
theorem State.Inv.exists_array_eq_written {a : ArrayName} (hs : s.Inv) (ha : a.size s.L = s.L)
    (h : ∀ n ∈ limbRegs a s.L, s.reg n ≠ .unwritten) : ∃ ws, s.array a = written ws ∧ ws.length = s.L := by
  obtain ⟨ws, hws⟩ : ∃ ws, s.array a = written ws := by
    refine exists_eq_written fun hmem => ?_
    obtain ⟨k, hk, hget⟩ := List.getElem_of_mem hmem
    have hkL : k < s.L := by rwa [hs.size, ha] at hk
    exact h (.limb a k) (mem_limbRegs.2 ⟨k, hkL, rfl⟩) (by simp [State.reg, hk, hget])
  exact ⟨ws, hws, by rw [← length_written, ← hws, hs.size, ha]⟩

/-- NORM and DIVIDE: what U and V hold. -/
theorem State.Inv.exists_wide_operands (hs : s.Inv)
    (h : ∀ n ∈ limbRegs .u s.L ++ limbRegs .v s.L, s.reg n ≠ .unwritten) :
    ∃ us vs, s.u = written us ∧ s.v = written vs ∧ us.length = s.L ∧ vs.length = s.L := by
  obtain ⟨hu, hv⟩ := List.forall_mem_append.1 h
  obtain ⟨us, hus, hulen⟩ := hs.exists_array_eq_written (a := .u) rfl hu
  obtain ⟨vs, hvs, hvlen⟩ := hs.exists_array_eq_written (a := .v) rfl hv
  exact ⟨us, vs, hus, hvs, hulen, hvlen⟩

theorem State.num_eq {m : ScalarName} {w : Word} (h : s.scalar m = .value w) : s.num m = w.toNat := by
  simp [State.num, h]

theorem State.wide_eq {a : ArrayName} {ws : List Word} (h : s.array a = written ws) : s.wide a = val ws := by
  simp [State.wide, h, written, Function.comp_def]

/-- How a command's rule decides between its two outcomes: `P` is its row of the table of R184. -/
theorem violates_or_completes {P : Prop} (hfault : P → exec i s = .fault .precondition)
    (hnext : ¬ P → ∃ t, exec i s = .next t) (hviol : s.violates i ↔ P) :
    (s.violates i ∧ exec i s = .fault .precondition) ∨ (¬ s.violates i ∧ ∃ t, exec i s = .next t) := by
  by_cases h : P
  · exact .inl ⟨hviol.2 h, hfault h⟩
  · exact .inr ⟨mt hviol.1 h, hnext h⟩

/-- With its operands written a command faults on its precondition, by the table of R184, or completes (R185). -/
theorem exec_of_operandsWritten (hs : s.Inv) (hw : s.operandsWritten i) :
    (s.violates i ∧ exec i s = .fault .precondition) ∨ (¬ s.violates i ∧ ∃ t, exec i s = .next t) := by
  have scalar {m : ScalarName} (hm : .scalar m ∈ operandRegs s.L i) : ∃ w, s.scalar m = .value w :=
    RegVal.exists_value (hw (.scalar m) hm)
  cases i with
  | norm =>
    obtain ⟨us, vs, hu, hv, hulen, hvlen⟩ := hs.exists_wide_operands hw
    obtain ⟨-, -, hrule⟩ := normRule
    obtain ⟨hzero, hne⟩ := hrule s us vs hu hv hulen hvlen
    refine violates_or_completes hzero (fun h => ?_) (by simp only [State.violates, State.wide_eq (a := .v) hv])
    obtain ⟨_, _, _, _, -, -, -, -, -, -, -, -, -, hnext⟩ := hne h
    exact ⟨_, hnext⟩
  | recip21 =>
    obtain ⟨d, hd⟩ := scalar (m := .y0) (by simp [operandRegs])
    obtain ⟨-, -, hrule⟩ := recip21Rule
    obtain ⟨hfault, hnext⟩ := hrule s d hd
    refine violates_or_completes hfault (fun h => ?_) (by simp only [State.violates, State.num_eq hd])
    obtain ⟨_, -, hnext⟩ := hnext (Nat.not_lt.1 h)
    exact ⟨_, hnext⟩
  | div21 =>
    obtain ⟨u1, hu1⟩ := scalar (m := .x1) (by simp [operandRegs])
    obtain ⟨u0, hu0⟩ := scalar (m := .x0) (by simp [operandRegs])
    obtain ⟨d, hd⟩ := scalar (m := .y0) (by simp [operandRegs])
    obtain ⟨v, hv⟩ := scalar (m := .vr) (by simp [operandRegs])
    obtain ⟨-, -, hrule⟩ := div21Rule
    obtain ⟨hfault, hnext⟩ := hrule s u1 u0 d v hu1 hu0 hd hv
    refine violates_or_completes hfault (fun h => ?_)
      (by simp only [State.violates, State.num_eq hd, State.num_eq hu1, State.num_eq hv])
    obtain ⟨hd, h⟩ := not_or.1 h
    obtain ⟨hu, hv⟩ := not_or.1 h
    obtain ⟨_, _, -, -, hnext⟩ := hnext (Nat.not_lt.1 hd) (Nat.not_le.1 hu) (not_not.1 hv)
    exact ⟨_, hnext⟩
  | recip32 =>
    obtain ⟨d1, hd1⟩ := scalar (m := .y1) (by simp [operandRegs])
    obtain ⟨d0, hd0⟩ := scalar (m := .y0) (by simp [operandRegs])
    obtain ⟨-, -, hrule⟩ := recip32Rule
    obtain ⟨hfault, hnext⟩ := hrule s d1 d0 hd1 hd0
    refine violates_or_completes hfault (fun h => ?_) (by simp only [State.violates, State.num_eq hd1])
    obtain ⟨_, -, hnext⟩ := hnext (Nat.not_lt.1 h)
    exact ⟨_, hnext⟩
  | div32 =>
    obtain ⟨u2, hu2⟩ := scalar (m := .x2) (by simp [operandRegs])
    obtain ⟨u1, hu1⟩ := scalar (m := .x1) (by simp [operandRegs])
    obtain ⟨u0, hu0⟩ := scalar (m := .x0) (by simp [operandRegs])
    obtain ⟨d1, hd1⟩ := scalar (m := .y1) (by simp [operandRegs])
    obtain ⟨d0, hd0⟩ := scalar (m := .y0) (by simp [operandRegs])
    obtain ⟨v, hv⟩ := scalar (m := .vr) (by simp [operandRegs])
    obtain ⟨-, -, hrule⟩ := div32Rule
    obtain ⟨hfault, hnext⟩ := hrule s u2 u1 u0 d1 d0 v _ _ hu2 hu1 hu0 hd1 hd0 hv rfl rfl
    refine violates_or_completes hfault (fun h => ?_) (by
      simp only [State.violates, State.num_eq hd1, State.num_eq hd0, State.num_eq hu2, State.num_eq hu1, State.num_eq hv])
    obtain ⟨hd, h⟩ := not_or.1 h
    obtain ⟨hu, hv⟩ := not_or.1 h
    obtain ⟨_, _, _, -, -, -, hnext⟩ := hnext (Nat.not_lt.1 hd) (Nat.not_le.1 hu) (not_not.1 hv)
    exact ⟨_, hnext⟩
  | divide =>
    obtain ⟨us, vs, hu, hv, hulen, hvlen⟩ := hs.exists_wide_operands hw
    obtain ⟨-, -, hrule⟩ := divideRule
    obtain ⟨hzero, hne⟩ := hrule s us vs hu hv hulen hvlen
    refine .inr ⟨id, ?_⟩
    by_cases h : val vs = 0
    · exact ⟨_, hzero h⟩
    · obtain ⟨_, _, -, -, -, -, hnext⟩ := hne h
      exact ⟨_, hnext⟩

/-- Settles O32: with written operands the table decides, and the engine step records the rule's fault. -/
theorem preconditionTable : Obligations.PreconditionTable := by
  unfold Obligations.PreconditionTable
  intro s i hinv hw
  have hdecide : exec i s = .fault .precondition ↔ s.violates i := by
    obtain ⟨hviol, h⟩ | ⟨hviol, t, h⟩ := exec_of_operandsWritten hinv hw
    · exact ⟨fun _ => hviol, fun _ => h⟩
    · exact ⟨fun hfault => (nomatch h.symm.trans hfault), fun hviol' => absurd hviol' hviol⟩
  refine ⟨hdecide, fun hviol hp => ⟨?_, ?_⟩⟩
  · rw [engineStep_command hp (decode_encode i), hdecide.2 hviol]
    rfl
  · rw [← hinv.pending, hp]
    rfl

/-- Settles O33: without a violation the command completes, and a completion shows as `exec_next_status` says. -/
theorem legalCommandsComplete : Obligations.LegalCommandsComplete := by
  unfold Obligations.LegalCommandsComplete
  intro s i hinv hw hviol
  obtain ⟨hviol', -⟩ | ⟨-, t, h⟩ := exec_of_operandsWritten hinv hw
  · exact absurd hviol' hviol
  · obtain ⟨hp, -⟩ := exec_next_frame h
    obtain hdone | ⟨rfl, herr⟩ := exec_next_status h
    · exact ⟨t, h, by rw [hdone]; rfl, by rw [hdone]; rfl, hp, fun _ => hdone⟩
    · exact ⟨t, h, by rw [herr]; rfl, by rw [herr]; rfl, hp, fun hi => absurd rfl hi⟩

/-! ## Nothing else enters -/

/-- Two outcomes that agree: the same fault, or the same STATUS and, without an error, the same result registers. -/
inductive OutcomesAgree (ns : List RegName) :
    Host.Outcome State Fault Refusal → Host.Outcome State Fault Refusal → Prop where
  | fault (f : Fault) : OutcomesAgree ns (.fault f) (.fault f)
  | next {t t' : State} (hstatus : t'.status = t.status)
      (hreg : t.status.cause = 0 → ∀ n ∈ ns, t'.reg n = t.reg n) : OutcomesAgree ns (.next t) (.next t')

theorem OutcomesAgree.withOperands {α : Type} {ns : List RegName} {x x' : Option α}
    {rule rule' : α → Host.Outcome State Fault Refusal} (hx : x = x') (h : ∀ o, OutcomesAgree ns (rule o) (rule' o)) :
    OutcomesAgree ns (withOperands x rule) (withOperands x' rule') := by
  subst hx
  cases x with
  | none => exact .fault _
  | some o => exact h o

theorem OutcomesAgree.requirePrecondition {ns : List RegName} {p : Bool}
    {rule rule' : Host.Outcome State Fault Refusal} (h : OutcomesAgree ns rule rule') :
    OutcomesAgree ns (requirePrecondition p rule) (requirePrecondition p rule') := by
  cases p with
  | false => exact .fault _
  | true => exact h

/-- Two completions without error agree when the same values went into the result registers. -/
theorem OutcomesAgree.complete {ns : List RegName} {c : BitVec 4} (h : ∀ n ∈ ns, t'.reg n = t.reg n) :
    OutcomesAgree ns (.next (t.complete c)) (.next (t'.complete c)) :=
  .next rfl fun _ n hn => by rw [State.complete_reg, State.complete_reg, h n hn]

/-- Arrays of one size are equal when their registers are. -/
theorem State.Inv.array_eq {a : ArrayName} (hs : s.Inv) (hs' : s'.Inv) (hL : s.L = s'.L)
    (h : ∀ n ∈ limbRegs a (a.size s.L), s.reg n = s'.reg n) : s.array a = s'.array a := by
  have hlen : (s.array a).length = (s'.array a).length := by rw [hs.size, hs'.size, hL]
  refine List.ext_getElem hlen fun k hk hk' => ?_
  have hreg := h (.limb a k) (mem_limbRegs.2 ⟨k, hs.size a ▸ hk, rfl⟩)
  simpa [State.reg, hk, hk'] using hreg

/-- A command's outcome is a function of its operand registers and `L` (R36, R78). -/
theorem exec_agree (hs : s.Inv) (hs' : s'.Inv) (hL : s.L = s'.L) (h : ∀ n ∈ operandRegs s.L i, s.reg n = s'.reg n) :
    OutcomesAgree (resultRegs s.L i) (exec i s) (exec i s') := by
  have wide (h : ∀ n ∈ limbRegs .u s.L ++ limbRegs .v s.L, s.reg n = s'.reg n) : wideOperands s = wideOperands s' := by
    obtain ⟨hu, hv⟩ := List.forall_mem_append.1 h
    have hu : s.u = s'.u := hs.array_eq (a := .u) hs' hL hu
    have hv : s.v = s'.v := hs.array_eq (a := .v) hs' hL hv
    simp only [wideOperands, hu, hv]
  have scalar {m : ScalarName} (hm : .scalar m ∈ operandRegs s.L i) : s.scalar m = s'.scalar m := h (.scalar m) hm
  cases i with
  | norm =>
    refine .withOperands (wide h) fun o => .requirePrecondition (.complete ?_)
    simp only [resultRegs, List.mem_cons, List.mem_append, mem_limbRegs, hL]
    rintro n (rfl | ⟨k, -, rfl⟩ | ⟨k, -, rfl⟩) <;> rfl
  | recip21 =>
    have hy0 : s.y0 = s'.y0 := scalar (m := .y0) (by simp [operandRegs])
    refine .withOperands (by rw [hy0]) fun o => .requirePrecondition (.complete ?_)
    simp [resultRegs, State.reg, State.scalar]
  | div21 =>
    have hx1 : s.x1 = s'.x1 := scalar (m := .x1) (by simp [operandRegs])
    have hx0 : s.x0 = s'.x0 := scalar (m := .x0) (by simp [operandRegs])
    have hy0 : s.y0 = s'.y0 := scalar (m := .y0) (by simp [operandRegs])
    have hvr : s.vr = s'.vr := scalar (m := .vr) (by simp [operandRegs])
    have ho : div21Operands s = div21Operands s' := by simp only [div21Operands, hx1, hx0, hy0, hvr]
    refine .withOperands ho fun o => .requirePrecondition (.complete ?_)
    simp [resultRegs, State.reg, State.scalar]
  | recip32 =>
    have hy1 : s.y1 = s'.y1 := scalar (m := .y1) (by simp [operandRegs])
    have hy0 : s.y0 = s'.y0 := scalar (m := .y0) (by simp [operandRegs])
    have ho : recip32Operands s = recip32Operands s' := by simp only [recip32Operands, hy1, hy0]
    refine .withOperands ho fun o => .requirePrecondition (.complete ?_)
    simp [resultRegs, State.reg, State.scalar]
  | div32 =>
    have hx2 : s.x2 = s'.x2 := scalar (m := .x2) (by simp [operandRegs])
    have hx1 : s.x1 = s'.x1 := scalar (m := .x1) (by simp [operandRegs])
    have hx0 : s.x0 = s'.x0 := scalar (m := .x0) (by simp [operandRegs])
    have hy1 : s.y1 = s'.y1 := scalar (m := .y1) (by simp [operandRegs])
    have hy0 : s.y0 = s'.y0 := scalar (m := .y0) (by simp [operandRegs])
    have hvr : s.vr = s'.vr := scalar (m := .vr) (by simp [operandRegs])
    have ho : div32Operands s = div32Operands s' := by simp only [div32Operands, hx2, hx1, hx0, hy1, hy0, hvr]
    refine .withOperands ho fun o => .requirePrecondition (.complete ?_)
    simp [resultRegs, State.reg, State.scalar]
  | divide =>
    refine .withOperands (wide h) fun o => ?_
    split
    · exact .next rfl fun hc => by cases hc
    · refine .complete ?_
      simp only [resultRegs, List.mem_append, mem_limbRegs, hL]
      rintro n (⟨k, -, rfl⟩ | ⟨k, -, rfl⟩) <;> rfl

theorem OutcomesAgree.of_fault {ns : List RegName} {f : Fault} {o' : Host.Outcome State Fault Refusal}
    (h : OutcomesAgree ns (.fault f) o') : o' = .fault f := by
  cases h
  rfl

theorem OutcomesAgree.of_next {ns : List RegName} {o' : Host.Outcome State Fault Refusal}
    (h : OutcomesAgree ns (.next t) o') :
    ∃ t', o' = .next t' ∧ t'.status = t.status ∧ (t.status.cause = 0 → ∀ n ∈ ns, t'.reg n = t.reg n) := by
  cases h with
  | @next _ t' hstatus hreg => exact ⟨t', rfl, hstatus, hreg⟩

/-- Settles O36, by `exec_agree`. -/
theorem commandDependsOnlyOnItsOperands : Obligations.CommandDependsOnlyOnItsOperands := by
  unfold Obligations.CommandDependsOnlyOnItsOperands
  intro s s' i hs hs' hL h
  have hagree := exec_agree hs hs' hL h
  refine ⟨fun f hf => ?_, fun t ht => ?_⟩
  · rw [hf] at hagree
    exact hagree.of_fault
  · rw [ht] at hagree
    exact hagree.of_next

end Sys2Proof.Machine
end

section
/-! PROOFS. The parts of a limb list as quotient and remainder of its value (R14). -/

namespace Sys2Proof.Machine

variable {L : Nat}

theorem B_pos : 0 < B := Nat.two_pow_pos 64

/-- The limbs below index `k`, and those from it on. -/
theorem val_take_add_val_drop (ws : List Word) (k : Nat) : val (ws.take k) + B ^ k * val (ws.drop k) = val ws := by
  rcases Nat.le_total k ws.length with hk | hk
  · have h := val_append (ws.take k) (ws.drop k)
    rw [List.take_append_drop, List.length_take_of_le hk] at h
    exact h.symm
  · rw [List.take_of_length_le hk, List.drop_of_length_le hk]
    rfl

theorem val_take_lt (ws : List Word) (k : Nat) : val (ws.take k) < B ^ k :=
  (val_lt _).trans_le (Nat.pow_le_pow_right B_pos (List.length_take_le k ws))

theorem val_take (ws : List Word) (k : Nat) : val (ws.take k) = val ws % B ^ k := by
  rw [← val_take_add_val_drop ws k, Nat.add_mul_mod_self_left, Nat.mod_eq_of_lt (val_take_lt ws k)]

theorem val_drop (ws : List Word) (k : Nat) : val (ws.drop k) = val ws / B ^ k := by
  rw [← val_take_add_val_drop ws k, Nat.add_mul_div_left _ _ (Nat.pow_pos B_pos), Nat.div_eq_of_lt (val_take_lt ws k),
    Nat.zero_add]

/-- `A[i]`, 0 above the array, is `limb_i` of the value (R14). -/
theorem toNat_getD (ws : List Word) (i : Nat) : (ws.getD i 0).toNat = val ws / B ^ i % B := by
  rw [← val_drop]
  rcases Nat.lt_or_ge i ws.length with hi | hi
  · rw [List.drop_eq_getElem_cons hi, val_cons, Nat.add_mul_mod_self_left, Nat.mod_eq_of_lt (ws[i]).isLt,
      List.getD_eq_getElem _ _ hi]
  · rw [List.drop_of_length_le hi, List.getD_eq_default _ _ hi]
    rfl

/-- Limb lists of one length are equal when their values are. -/
theorem eq_of_val_eq {xs ys : List Word} (hlen : xs.length = ys.length) (h : val xs = val ys) : xs = ys := by
  rw [← limbs_val xs, ← limbs_val ys, hlen, h]

/-- The limb list of a value, by its length. -/
theorem limbs_eq_of_val_eq {L x : Nat} {ws : List Word} (hlen : ws.length = L) (h : val ws = x) : limbs L x = ws := by
  rw [← hlen, ← h, limbs_val]

end Sys2Proof.Machine
end

section
/-! PROOFS. Round trip, no overflow and the degenerate cases of DIVIDE (R168, R169, R172). -/

namespace Sys2Proof.Machine

/-- A completed DIVIDE with a nonzero divisor, from the registers' contents (R150). -/
theorem exec_divide_next {s t : State} {us vs : List Word} (hu : s.u = written us) (hv : s.v = written vs)
    (hne : val vs ≠ 0) (h : exec .divide s = .next t) : t = State.complete
      { s with
        q := written (limbs s.L (val us / val vs))
        r := written (limbs s.L (val us % val vs)) } causeNone := by
  have ho : wideOperands s = some ⟨us, vs⟩ := wideOperands_eq_some.2 ⟨hu, hv⟩
  exact (Host.Outcome.next.inj ((execDivide_eq_next ho hne).symm.trans h)).symm

/-- Settles O39: Q and R hold quotient and remainder, and limb lists of one length are equal when their values are. -/
theorem divideProperties : Obligations.DivideProperties := by
  unfold Obligations.DivideProperties
  intro s t us vs hu hv hulen hvlen hne h
  have ht := exec_divide_next hu hv hne h
  have htq : t.q = written (limbs s.L (val us / val vs)) := by rw [ht]; rfl
  have htr : t.r = written (limbs s.L (val us % val vs)) := by rw [ht]; rfl
  have hq : t.wide .q = val us / val vs :=
    (State.wide_eq (a := .q) htq).trans (val_limbs_of_le_val hulen (Nat.div_le_self _ _))
  have hr : t.wide .r = val us % val vs :=
    (State.wide_eq (a := .r) htr).trans (val_limbs_of_le_val hulen (Nat.mod_le _ _))
  have htu : t.wide .u = val us := State.wide_eq (a := .u) (by rw [ht]; exact hu)
  have htv : t.wide .v = val vs := State.wide_eq (a := .v) (by rw [ht]; exact hv)
  have hulimbs {x : Nat} (hx : val us = x) : written (limbs s.L x) = s.u := by rw [limbs_eq_of_val_eq hulen hx]; exact hu.symm
  rw [hq, hr]
  refine ⟨(Nat.div_add_mod' _ _).symm, Nat.mod_lt _ (Nat.pos_of_ne_zero hne), Nat.div_le_self _ _, htu, htv,
    fun hone => ?_, fun heq => ?_, fun hlt => ?_⟩
  · rw [htq, hone]
    exact ⟨hulimbs (Nat.div_one _).symm, Nat.mod_one _⟩
  · rw [heq]
    exact ⟨Nat.div_self (Nat.pos_of_ne_zero hne), Nat.mod_self _⟩
  · rw [htr]
    exact ⟨Nat.div_eq_of_lt hlt, hulimbs (Nat.mod_eq_of_lt hlt).symm⟩

end Sys2Proof.Machine
end

section
/-! PROOFS. The properties of the normalization function (R102). -/

namespace Sys2Proof.Machine

variable {L : Nat} {us vs : List Word}

/-- Shifted up by its leading zeros a nonzero limb is normalized (R15, R16). -/
theorem le_mul_two_pow_clz64 {x : Nat} (h0 : x ≠ 0) (h : x < B) : 2 ^ 63 ≤ x * 2 ^ clz64 x := by
  have hlog : Nat.log2 x < 64 := (Nat.log2_lt h0).2 h
  calc 2 ^ 63 = 2 ^ Nat.log2 x * 2 ^ (63 - Nat.log2 x) := by rw [← pow_add]; congr 1; omega
    _ ≤ x * 2 ^ clz64 x := Nat.mul_le_mul_right _ (Nat.log2_self_le h0)

theorem getD_mul_pow_le_val (ws : List Word) (i : Nat) : (ws.getD i 0).toNat * B ^ i ≤ val ws := by
  rw [toNat_getD]
  exact (Nat.mul_le_mul_right _ (Nat.mod_le _ _)).trans (Nat.div_mul_le_self _ _)

theorem normalizeUV_n_pos (L : Nat) (us : List Word) (hv : val vs ≠ 0) : 1 ≤ (normalizeUV L us vs).n :=
  Nat.one_le_iff_ne_zero.2 (mt significantLimbs_eq_zero_iff.1 hv)

/-- The normalized divisor reaches the top bit of its significant limbs (R102). -/
theorem le_val_mul_normalizeUV_shift (L : Nat) (us : List Word) (hv : val vs ≠ 0) :
    2 ^ 63 * B ^ ((normalizeUV L us vs).n - 1) ≤ val vs * 2 ^ (normalizeUV L us vs).s := by
  have htop : (vs.getD (significantLimbs vs - 1) 0).toNat ≠ 0 := by
    simpa [BitVec.toNat_eq] using getD_significantLimbs_ne_zero hv
  calc 2 ^ 63 * B ^ ((normalizeUV L us vs).n - 1)
      ≤ (vs.getD (significantLimbs vs - 1) 0).toNat * 2 ^ (normalizeUV L us vs).s * B ^ ((normalizeUV L us vs).n - 1) :=
        Nat.mul_le_mul_right _ (le_mul_two_pow_clz64 htop (BitVec.isLt _))
    _ = (vs.getD (significantLimbs vs - 1) 0).toNat * B ^ (significantLimbs vs - 1) * 2 ^ (normalizeUV L us vs).s :=
        Nat.mul_right_comm _ _ _
    _ ≤ val vs * 2 ^ (normalizeUV L us vs).s := Nat.mul_le_mul_right _ (getD_mul_pow_le_val _ _)

/-- The top limb of the normalized divisor is normalized (R102). -/
theorem le_getD_normalizeUV_vn (us : List Word) (hlen : vs.length = L) (hv : val vs ≠ 0) :
    2 ^ 63 ≤ ((normalizeUV L us vs).vn.getD ((normalizeUV L us vs).n - 1) 0).toNat := by
  have hn := Nat.sub_add_cancel (normalizeUV_n_pos L us hv)
  have hpow : 0 < B ^ ((normalizeUV L us vs).n - 1) := Nat.pow_pos B_pos
  have hlt := val_mul_normalizeUV_shift_lt L us hv
  rw [← hn, pow_succ] at hlt
  rw [toNat_getD, val_normalizeUV_vn us hlen hv, Nat.mod_eq_of_lt (Nat.div_lt_of_lt_mul hlt), Nat.le_div_iff_mul_le hpow]
  exact le_val_mul_normalizeUV_shift L us hv

/-- The normalized divisor has no limb above its significant ones (R102). -/
theorem getD_normalizeUV_vn_eq_zero {i : Nat} (us : List Word) (hlen : vs.length = L) (hv : val vs ≠ 0)
    (hi : (normalizeUV L us vs).n ≤ i) : (normalizeUV L us vs).vn.getD i 0 = 0 := by
  have hlt := (val_mul_normalizeUV_shift_lt L us hv).trans_le (Nat.pow_le_pow_right B_pos hi)
  apply BitVec.eq_of_toNat_eq
  rw [toNat_getD, val_normalizeUV_vn us hlen hv, Nat.div_eq_of_lt hlt]
  rfl

/-- The top limb of the normalized dividend holds the bits shifted out of the limb below it (R102). -/
theorem getD_normalizeUV_un_lt (vs : List Word) (hlen : us.length = L) :
    ((normalizeUV L us vs).un.getD L 0).toNat < 2 ^ (normalizeUV L us vs).s := by
  rw [toNat_getD, val_normalizeUV_un vs hlen]
  refine (Nat.mod_le _ _).trans_lt (Nat.div_lt_of_lt_mul ?_)
  exact Nat.mul_lt_mul_of_pos_right (hlen ▸ val_lt us) (Nat.two_pow_pos _)

/-- Settles O40, property by property. -/
theorem normalizeProperties : Obligations.NormalizeProperties := by
  unfold Obligations.NormalizeProperties
  intro L us vs hulen hvlen hv
  exact ⟨normalizeUV_s_le L us vs, normalized_eq_true_iff.2 (le_getD_normalizeUV_vn us hvlen hv),
    fun i hi _ => getD_normalizeUV_vn_eq_zero us hvlen hv hi, val_normalizeUV_vn us hvlen hv,
    val_mul_normalizeUV_shift_lt L us hv, val_normalizeUV_un vs hulen, getD_normalizeUV_un_lt vs hulen⟩

end Sys2Proof.Machine
end

section
/-! PROOFS. The properties of the two reciprocals (R113, R133). -/

namespace Sys2Proof.Machine

/-! ## 2-by-1 -/

/-- Undoing R111's subtraction of B: the reciprocal of a limb is at least B. -/
theorem recip21_add {d : Nat} (h0 : 0 < d) (hd : d < B) : recip21 d + B = (B ^ 2 - 1) / d := by
  refine Nat.sub_add_cancel ((Nat.le_div_iff_mul_le h0).2 ?_)
  have hB : B * d < B * B := Nat.mul_lt_mul_of_pos_left hd B_pos
  rw [pow_two]
  exact Nat.le_sub_one_of_lt hB

theorem mul_recip21_le {d : Nat} (h0 : 0 < d) (hd : d < B) : d * (recip21 d + B) ≤ B ^ 2 - 1 := by
  rw [recip21_add h0 hd]
  exact Nat.mul_div_le _ _

theorem lt_mul_recip21 {d : Nat} (h0 : 0 < d) (hd : d < B) : B ^ 2 - 1 < d * (recip21 d + B + 1) := by
  rw [recip21_add h0 hd]
  exact Nat.lt_mul_div_succ _ h0

theorem mul_recip21_lt {d : Nat} (h0 : 0 < d) (hd : d < B) : d * (recip21 d + B) < B ^ 2 :=
  Nat.lt_of_le_pred (Nat.pow_pos B_pos) (mul_recip21_le h0 hd)

theorem le_mul_recip21 {d : Nat} (h0 : 0 < d) (hd : d < B) : B ^ 2 ≤ d * (recip21 d + B + 1) :=
  Nat.le_of_pred_lt (lt_mul_recip21 h0 hd)

/-- `(B − 1)(B + 1) = B² − 1`, so the smallest reciprocal, that of `B − 1`, is 1. -/
theorem one_le_recip21 {d : Nat} (h0 : 0 < d) (hd : d < B) : 1 ≤ recip21 d := by
  have hquot : B + 1 ≤ (B ^ 2 - 1) / d := (Nat.le_div_iff_mul_le h0).2 <|
    calc (B + 1) * d ≤ (B + 1) * (B - 1) := Nat.mul_le_mul_left _ (Nat.le_sub_one_of_lt hd)
      _ = B ^ 2 - 1 := by decide
  have := recip21_add h0 hd
  omega

theorem recip21_anti {d d' : Nat} (h0 : 0 < d) (h : d ≤ d') : recip21 d' ≤ recip21 d :=
  Nat.sub_le_sub_right (Nat.div_le_div_left h h0) B

/-- Settles O41; the inequality that section 1 of the source states the other way round follows from the quotient's upper
bound, because the quotient exceeds the divisor. -/
theorem recip21Properties : Obligations.Recip21Properties := by
  unfold Obligations.Recip21Properties
  refine ⟨fun d hd hlt => ?_, fun d d' hd h _ => recip21_anti (by omega) h, by decide, by decide⟩
  have h0 : 0 < d := by omega
  have hone := one_le_recip21 h0 hlt
  have hupper := lt_mul_recip21 h0 hlt
  refine ⟨mul_recip21_le h0 hlt, hupper, hone, Nat.le_sub_one_of_lt (recip21_lt hd), ?_⟩
  rw [Nat.mul_add_one] at hupper
  rw [Nat.add_one_mul]
  omega

/-! ## 3-by-2 -/

theorem recip32_add {D : Nat} (h0 : 0 < D) (hD : D < B ^ 2) : recip32 D + B = (B ^ 3 - 1) / D := by
  refine Nat.sub_add_cancel ((Nat.le_div_iff_mul_le h0).2 ?_)
  have hB : B * D < B * B ^ 2 := Nat.mul_lt_mul_of_pos_left hD B_pos
  rw [← pow_succ'] at hB
  exact Nat.le_sub_one_of_lt hB

theorem mul_recip32_le {D : Nat} (h0 : 0 < D) (hD : D < B ^ 2) : D * (recip32 D + B) ≤ B ^ 3 - 1 := by
  rw [recip32_add h0 hD]
  exact Nat.mul_div_le _ _

theorem lt_mul_recip32 {D : Nat} (h0 : 0 < D) (hD : D < B ^ 2) : B ^ 3 - 1 < D * (recip32 D + B + 1) := by
  rw [recip32_add h0 hD]
  exact Nat.lt_mul_div_succ _ h0

theorem mul_recip32_lt {D : Nat} (h0 : 0 < D) (hD : D < B ^ 2) : D * (recip32 D + B) < B ^ 3 :=
  Nat.lt_of_le_pred (Nat.pow_pos B_pos) (mul_recip32_le h0 hD)

theorem le_mul_recip32 {D : Nat} (h0 : 0 < D) (hD : D < B ^ 2) : B ^ 3 ≤ D * (recip32 D + B + 1) :=
  Nat.le_of_pred_lt (lt_mul_recip32 h0 hD)

theorem recip32_anti {D D' : Nat} (h0 : 0 < D) (h : D ≤ D') : recip32 D' ≤ recip32 D :=
  Nat.sub_le_sub_right (Nat.div_le_div_left h h0) B

/-- With a zero low limb the 3-by-2 reciprocal is the 2-by-1 reciprocal of the top limb (R133). -/
theorem recip32_mul_B (d1 : Nat) : recip32 (d1 * B) = recip21 d1 := by
  have hB : (B ^ 3 - 1) / B = B ^ 2 - 1 := by decide
  unfold recip32 recip21
  rw [Nat.mul_comm d1 B, ← Nat.div_div_eq_div_mul, hB]

/-- The low limb of the divisor lowers the reciprocal by at most 4: four less than the reciprocal of `d1` still fits
`d1 + 1` times into `B²`, and `(d1 + 1)·B` exceeds the divisor (R133). -/
theorem recip21_le_recip32_add {d1 d0 : Nat} (hd1 : 2 ^ 63 ≤ d1) (hlt : d1 < B) (hd0 : d0 < B) :
    recip21 d1 ≤ recip32 (d1 * B + d0) + 4 := by
  have hD0 : 0 < d1 * B + d0 := Nat.add_pos_left (Nat.mul_pos (by omega) B_pos) _
  have hD : d1 * B + d0 < B ^ 2 := mul_B_add_lt hlt hd0
  obtain ⟨c, hc⟩ : ∃ c, recip21 d1 + B = c + 4 := ⟨recip21 d1 + B - 4, by omega⟩
  have hfit : d1 * c + d1 * 4 ≤ B ^ 2 - 1 := by
    rw [← Nat.mul_add, ← hc]
    exact mul_recip21_le (by omega) hlt
  have hsmall : c + 4 < 4 * d1 := by
    have hB : B = 2 * 2 ^ 63 := by decide
    have hrecip := recip21_lt hd1
    omega
  have hmul : c * (d1 * B + d0) ≤ B ^ 3 - 1 :=
    calc c * (d1 * B + d0) ≤ c * ((d1 + 1) * B) := Nat.mul_le_mul_left _ (by rw [Nat.add_one_mul]; omega)
      _ = (d1 * c + c) * B := by ring
      _ ≤ (B ^ 2 - 1) * B := Nat.mul_le_mul_right _ (by omega)
      _ ≤ B ^ 3 - 1 := by decide
  have hquot := (Nat.le_div_iff_mul_le hD0).2 hmul
  rw [← recip32_add hD0 hD] at hquot
  omega

/-- Settles O42: bounds by the quotient's definition, and the two reciprocals compared through `d1·B`. -/
theorem recip32Properties : Obligations.Recip32Properties := by
  unfold Obligations.Recip32Properties
  refine ⟨fun d1 d0 hd1 hlt hd0 => ?_, by decide, by decide⟩
  have hle : 2 ^ 63 * B ≤ d1 * B := Nat.mul_le_mul_right _ hd1
  have hpos : 0 < d1 * B := Nat.mul_pos (by omega) B_pos
  have hD0 : 0 < d1 * B + d0 := Nat.add_pos_left hpos _
  have hD : d1 * B + d0 < B ^ 2 := mul_B_add_lt hlt hd0
  refine ⟨mul_recip32_le hD0 hD, lt_mul_recip32 hD0 hD, Nat.le_sub_one_of_lt (recip32_lt (hle.trans (Nat.le_add_right _ _))),
    recip32_mul_B d1, ?_, recip21_le_recip32_add hd1 hlt hd0⟩
  rw [← recip32_mul_B d1]
  exact recip32_anti hpos (Nat.le_add_right _ _)

end Sys2Proof.Machine
end

section
/-! PROOFS. The limb-by-limb normalizer (R103). -/

namespace Sys2Proof.Machine

variable {L s : Nat} {us vs : List Word}

@[simp] theorem length_shiftLimbsUp (s : Nat) (below : Word) (ws : List Word) :
    (shiftLimbsUp s below ws).length = ws.length := by
  induction ws generalizing below with
  | nil => rfl
  | cons w ws ih => rw [shiftLimbsUp, List.length_cons, List.length_cons, ih]

/-- A shifted limb: its own low bits above the top bits of the limb below it. -/
theorem toNat_shiftLimb (hs : s ≤ 64) (w below : Word) :
    ((w <<< s) ||| (below >>> (64 - s))).toNat = w.toNat * 2 ^ s % B + below.toNat / 2 ^ (64 - s) := by
  have hB : B = 2 ^ s * 2 ^ (64 - s) := by rw [← pow_add, Nat.add_sub_cancel' hs]
  have hbelow : below.toNat / 2 ^ (64 - s) < 2 ^ s := Nat.div_lt_of_lt_mul (by rw [Nat.mul_comm, ← hB]; exact below.isLt)
  have hlow : w.toNat * 2 ^ s % B = (w.toNat % 2 ^ (64 - s)) <<< s := by
    rw [hB, Nat.mul_comm, Nat.mul_mod_mul_left, Nat.shiftLeft_eq, Nat.mul_comm]
  rw [BitVec.toNat_or, BitVec.toNat_shiftLeft, BitVec.toNat_ushiftRight, Nat.shiftLeft_eq, Nat.shiftRight_eq_div_pow,
    hlow, Nat.shiftLeft_add_eq_or_of_lt hbelow]

/-- What leaves a limb at the top enters the next one, and at the end the appended limb. -/
theorem val_shiftLimbsUp_append (hs : s ≤ 64) (below : Word) (ws : List Word) :
    val (shiftLimbsUp s below ws ++ [ws.getLastD below >>> (64 - s)]) = val ws * 2 ^ s + below.toNat / 2 ^ (64 - s) := by
  have hB : B = 2 ^ s * 2 ^ (64 - s) := by rw [← pow_add, Nat.add_sub_cancel' hs]
  induction ws generalizing below with
  | nil => simp [shiftLimbsUp, Nat.shiftRight_eq_div_pow]
  | cons w ws ih =>
    have hw : w.toNat * 2 ^ s = w.toNat * 2 ^ s % B + B * (w.toNat / 2 ^ (64 - s)) := by
      conv_lhs => rw [← Nat.mod_add_div (w.toNat * 2 ^ s) B]
      congr 2
      rw [hB, Nat.mul_comm, Nat.mul_div_mul_left _ _ (Nat.two_pow_pos s)]
    rw [shiftLimbsUp, List.cons_append, List.getLastD_cons, val_cons, val_cons, ih w, toNat_shiftLimb hs]
    linarith

/-- With nothing below, the shifted limbs are the low limbs of the shifted value. -/
theorem val_shiftLimbsUp (hs : s ≤ 64) (ws : List Word) :
    val (shiftLimbsUp s 0 ws) = val ws * 2 ^ s % B ^ ws.length := by
  have h := val_shiftLimbsUp_append hs 0 ws
  rw [val_append, length_shiftLimbsUp, show (0 : Word).toNat = 0 from rfl, Nat.zero_div, Nat.add_zero] at h
  have hlt := val_lt (shiftLimbsUp s 0 ws)
  rw [length_shiftLimbsUp] at hlt
  rw [← h, Nat.add_mul_mod_self_left, Nat.mod_eq_of_lt hlt]

/-- A shift of 0 copies the limbs (R103). -/
theorem normalizeDatapath_of_shift_zero (L : Nat) (h : (normalizeUV L us vs).s = 0) :
    normalizeDatapath us vs = ⟨(normalizeUV L us vs).s, us ++ [0], vs, (normalizeUV L us vs).n⟩ :=
  if_pos h

theorem normalizeDatapath_of_shift_ne_zero (L : Nat) (h : (normalizeUV L us vs).s ≠ 0) :
    normalizeDatapath us vs =
      ⟨(normalizeUV L us vs).s,
        shiftLimbsUp (normalizeUV L us vs).s 0 us ++ [us.getLastD 0 >>> (64 - (normalizeUV L us vs).s)],
        shiftLimbsUp (normalizeUV L us vs).s 0 vs, (normalizeUV L us vs).n⟩ :=
  if_neg h

/-- The normalization function's arrays, by their lengths and values (R101, R102). -/
theorem eq_normalizeUV {un vn : List Word} (hulen : us.length = L) (hvlen : vs.length = L) (hv : val vs ≠ 0)
    (hunlen : un.length = L + 1) (hvnlen : vn.length = L) (hun : val un = val us * 2 ^ (normalizeUV L us vs).s)
    (hvn : val vn = val vs * 2 ^ (normalizeUV L us vs).s) :
    ⟨(normalizeUV L us vs).s, un, vn, (normalizeUV L us vs).n⟩ = normalizeUV L us vs := by
  have hun : un = (normalizeUV L us vs).un :=
    eq_of_val_eq (hunlen.trans (length_limbs _ _).symm) (hun.trans (val_normalizeUV_un vs hulen).symm)
  have hvn : vn = (normalizeUV L us vs).vn :=
    eq_of_val_eq (hvnlen.trans (length_limbs _ _).symm) (hvn.trans (val_normalizeUV_vn us hvlen hv).symm)
  rw [hun, hvn]

/-- Settles O43: on both paths the limb lists have the lengths and the values of the normalization function's. -/
theorem normalizeDatapathIsExact : Obligations.NormalizeDatapathIsExact := by
  unfold Obligations.NormalizeDatapathIsExact
  intro L us vs hulen hvlen hv
  by_cases h : (normalizeUV L us vs).s = 0
  · rw [normalizeDatapath_of_shift_zero L h]
    apply eq_normalizeUV hulen hvlen hv
    · rw [List.length_append, hulen]
      rfl
    · exact hvlen
    · rw [h, val_append]
      simp
    · rw [h, pow_zero, Nat.mul_one]
  · have hs : (normalizeUV L us vs).s ≤ 64 := (normalizeUV_s_le L us vs).trans (by decide)
    rw [normalizeDatapath_of_shift_ne_zero L h]
    apply eq_normalizeUV hulen hvlen hv
    · rw [List.length_append, length_shiftLimbsUp, hulen]
      rfl
    · rw [length_shiftLimbsUp, hvlen]
    · rw [val_shiftLimbsUp_append hs]
      simp
    · have hlt := val_lt (normalizeUV L us vs).vn
      have hlen : (normalizeUV L us vs).vn.length = vs.length := (length_limbs _ _).trans hvlen.symm
      rw [val_normalizeUV_vn us hvlen hv, hlen] at hlt
      rw [val_shiftLimbsUp hs, Nat.mod_eq_of_lt hlt]

end Sys2Proof.Machine
end

section
/-! PROOFS. The reference steps' frame: words as integers modulo a power of two, and the two corrections of an estimated
quotient digit (R118, R139). -/

namespace Sys2Proof.Machine

/-! ## Words as integers modulo a power of two -/

theorem intCast_toNat {w : Nat} (x : BitVec w) : ((x.toNat : ℤ) : BitVec w) = x := by
  rw [Int.cast_natCast, BitVec.natCast_eq_ofNat, BitVec.ofNat_toNat, BitVec.setWidth_eq]

theorem toNat_intCast {w : Nat} (z : ℤ) : ((z : BitVec w).toNat : ℤ) = z % 2 ^ w := by
  have h : (z : BitVec w).toNat = (z % (2 ^ w : Nat)).toNat := BitVec.toNat_ofInt z
  rw [h, Int.toNat_of_nonneg (Int.emod_nonneg _ (by positivity))]
  norm_cast

theorem toNat_intCast_of_nonneg {w : Nat} {z : ℤ} (h0 : 0 ≤ z) (h : z < 2 ^ w) : ((z : BitVec w).toNat : ℤ) = z := by
  rw [toNat_intCast, Int.emod_eq_of_lt h0 h]

theorem toNat_intCast_of_neg {w : Nat} {z : ℤ} (h : -2 ^ w ≤ z) (h0 : z < 0) :
    ((z : BitVec w).toNat : ℤ) = z + 2 ^ w := by
  rw [toNat_intCast, ← Int.add_emod_right, Int.emod_eq_of_lt (by omega) (by omega)]

theorem toNat_mulWide (x y : Word) : (mulWide x y).toNat = x.toNat * y.toNat := by
  have hlt : x.toNat * y.toNat < 2 ^ 64 * 2 ^ 64 := Nat.mul_lt_mul'' x.isLt y.isLt
  rw [mulWide, BitVec.toNat_mul, BitVec.toNat_setWidth_of_le (by decide), BitVec.toNat_setWidth_of_le (by decide),
    Nat.mod_eq_of_lt (by simpa using hlt)]

theorem toNat_append (a b : Word) : (a ++ b : BitVec 128).toNat = pair a b := by
  rw [BitVec.toNat_append, ← Nat.shiftLeft_add_eq_or_of_lt b.isLt, Nat.shiftLeft_eq]
  rfl

theorem toNat_hiLimb (x : BitVec 128) : (hiLimb x).toNat = x.toNat / B := by
  have hlt : x.toNat / B < 2 ^ 64 := Nat.div_lt_of_lt_mul x.isLt
  rw [hiLimb, BitVec.extractLsb'_toNat, Nat.shiftRight_eq_div_pow, Nat.mod_eq_of_lt hlt]

theorem toNat_loLimb (x : BitVec 128) : (loLimb x).toNat = x.toNat % B := by
  rw [loLimb, BitVec.extractLsb'_toNat, Nat.shiftRight_zero]

/-! ## The corrections -/

/-- The corrections both reference steps end with: one digit down where the remainder is seen to be `big`, then one up
where it is not below the divisor. -/
def correctDigit {w : Nat} (big : Prop) [Decidable big] (d : BitVec w) (q : Word) (r : BitVec w) : Word × BitVec w :=
  let x := if big then (q - 1, r + d) else (q, r)
  if x.2 ≥ d then (x.1 + 1, x.2 - d) else x

variable {w u : Nat} {big : Prop} [Decidable big] {d r : BitVec w} {q : Word} {y z : ℤ}

/-- A digit whose remainder lies in its range is the quotient. -/
theorem toNat_digit (hfit : u / d.toNat < B) (hu : (u : ℤ) = y * d.toNat + z) (hq : q = (y : Word))
    (hr : (r.toNat : ℤ) = z) (hz : z < d.toNat) : q.toNat = u / d.toNat ∧ r.toNat = u % d.toNat := by
  have h0 : 0 ≤ z := by omega
  have hdiv : (u : ℤ) / d.toNat = y ∧ (u : ℤ) % d.toNat = z :=
    (Int.ediv_emod_unique (h0.trans_lt hz)).2 ⟨by rw [hu]; ring, h0, hz⟩
  obtain ⟨hquot, hrem⟩ := hdiv
  have hy : y = (u / d.toNat : Nat) := by rw [← hquot, Int.natCast_ediv]
  have hlt : ((u / d.toNat : Nat) : ℤ) < 2 ^ 64 := by exact_mod_cast hfit
  refine ⟨?_, by exact_mod_cast hr.trans hrem.symm⟩
  have hword : (q.toNat : ℤ) = (u / d.toNat : Nat) := by
    rw [hq, hy, toNat_intCast_of_nonneg (Int.natCast_nonneg _) hlt]
  exact_mod_cast hword

/-- The last correction, of a remainder below twice the divisor. -/
theorem toNat_digit_up (hfit : u / d.toNat < B) (hu : (u : ℤ) = y * d.toNat + z) (hq : q = (y : Word))
    (hr : (r.toNat : ℤ) = z) (hz : z < 2 * d.toNat) :
    (if r ≥ d then (q + 1, r - d) else (q, r)).1.toNat = u / d.toNat ∧
      (if r ≥ d then (q + 1, r - d) else (q, r)).2.toNat = u % d.toNat := by
  by_cases h : r ≥ d
  · have hle : d.toNat ≤ r.toNat := h
    rw [if_pos h]
    refine toNat_digit (y := y + 1) (z := z - d.toNat) hfit (by rw [hu]; ring) (by rw [hq]; push_cast; rfl) ?_ (by omega)
    rw [BitVec.toNat_sub_of_le h]
    omega
  · have hlt : r.toNat < d.toNat := BitVec.not_le.1 h
    rw [if_neg h]
    exact toNat_digit hfit hu hq hr (by omega)

/-- A digit `y` that leaves the remainder `z`, which may be negative, is corrected to the exact quotient: `big` must hold
where `z` is negative, and where it holds of another `z` there must be room for the divisor. -/
theorem correctDigit_exact (hd : 2 ^ w ≤ 2 * d.toNat) (hfit : u / d.toNat < B) (hu : (u : ℤ) = y * d.toNat + z)
    (hq : q = (y : Word)) (hr : r = (z : BitVec w)) (hlo : -d.toNat ≤ z) (hhi : z < 2 ^ w) (hneg : z < 0 → big)
    (hroom : big → 0 ≤ z → z + d.toNat < 2 ^ w) :
    (correctDigit big d q r).1.toNat = u / d.toNat ∧ (correctDigit big d q r).2.toNat = u % d.toNat := by
  have hd' : (2 : ℤ) ^ w ≤ 2 * d.toNat := by exact_mod_cast hd
  have hdw : (d.toNat : ℤ) < 2 ^ w := by exact_mod_cast d.isLt
  unfold correctDigit
  by_cases h : big
  · have hlt : z + d.toNat < 2 ^ w := by
      rcases lt_or_ge z 0 with hz | hz
      · omega
      · exact hroom h hz
    have hcast : r + d = ((z + d.toNat : ℤ) : BitVec w) := by rw [hr, Int.cast_add, intCast_toNat]
    have htoNat : ((r + d).toNat : ℤ) = z + d.toNat := by rw [hcast, toNat_intCast_of_nonneg (by omega) hlt]
    rw [if_pos h]
    exact toNat_digit_up (y := y - 1) hfit (by rw [hu]; ring) (by rw [hq]; push_cast; rfl) htoNat (by omega)
  · have hz : 0 ≤ z := not_lt.1 (mt hneg h)
    have htoNat : (r.toNat : ℤ) = z := by rw [hr, toNat_intCast_of_nonneg hz hhi]
    rw [if_neg h]
    exact toNat_digit_up hfit hu hq htoNat (by omega)

/-! ## The estimate -/

/-- The estimate both reference steps begin with: the high limbs of the dividend times the reciprocal plus B. -/
def digitEstimate (v a b : Word) : BitVec 128 := mulWide v a + (a ++ b : BitVec 128)

theorem toNat_digitEstimate {v a b : Word} (h : v.toNat * a.toNat + pair a b < B ^ 2) :
    (digitEstimate v a b).toNat = v.toNat * a.toNat + pair a b := by
  rw [digitEstimate, BitVec.toNat_add, toNat_mulWide, toNat_append]
  exact Nat.mod_eq_of_lt (by simpa [← pow_mul] using h)

end Sys2Proof.Machine
end

section
/-! PROOFS. The 2-by-1 reference step (R118). -/

namespace Sys2Proof.Machine

/-- The first estimate of the 2-by-1 step: the remainder it leaves is at least `−d`, is above `q0 − b`, and does not reach
both `b − d` and `q0`, because `b` times it is `(b² − (v + b)·d)·u1 + (b − d)·u0 + d·(q0 − b)`. -/
theorem estimate21_bounds {b d v u1 u0 q1 q0 : Nat} {z : ℤ} (hd : 0 < d) (hdb : d < b) (hlo : d * (v + b) < b ^ 2)
    (hhi : b ^ 2 ≤ d * (v + b + 1)) (hu1 : u1 < d) (hu0 : u0 < b) (hq0 : q0 < b)
    (hq : v * u1 + (u1 * b + u0) = q1 * b + q0) (hz : z = u1 * b + u0 - (q1 + 1) * d) :
    -d ≤ z ∧ (q0 : ℤ) - b < z ∧ (z < b - d ∨ z < q0) := by
  zify at *
  have hb : (0 : ℤ) < b := hd.trans hdb
  have hbz : (b : ℤ) * z = (b ^ 2 - d * (v + b)) * u1 + (b - d) * u0 + d * (q0 - b) := by
    rw [hz]
    linear_combination d * hq
  have hku1 : 0 ≤ ((b : ℤ) ^ 2 - d * (v + b)) * u1 := mul_nonneg (by linarith) (by positivity)
  have hdu0 : 0 ≤ ((b : ℤ) - d) * u0 := mul_nonneg (by linarith) (by positivity)
  refine ⟨?_, ?_, ?_⟩
  · have : (0 : ℤ) ≤ d * q0 := by positivity
    exact le_of_mul_le_mul_left (by linarith : (b : ℤ) * -d ≤ b * z) hb
  · have : 0 < ((b : ℤ) - d) * (b - q0) := mul_pos (by linarith) (by linarith)
    exact lt_of_mul_lt_mul_left (by linarith : (b : ℤ) * (q0 - b) < b * z) hb.le
  · by_contra h
    obtain ⟨hzd, hzq⟩ := not_or.1 h
    have hku1' : ((b : ℤ) ^ 2 - d * (v + b)) * u1 ≤ d * u1 := mul_le_mul_of_nonneg_right (by linarith) (by positivity)
    have hdu1 : (d : ℤ) * u1 ≤ d * (d - 1) := mul_le_mul_of_nonneg_left (by linarith) hd.le
    have hdu0' : ((b : ℤ) - d) * u0 ≤ (b - d) * (b - 1) := mul_le_mul_of_nonneg_left (by linarith) (by linarith)
    have hz1 : ((b : ℤ) - d) * (b - d) ≤ (b - d) * z := mul_le_mul_of_nonneg_left (by linarith) (by linarith)
    have hz2 : (d : ℤ) * q0 ≤ d * z := mul_le_mul_of_nonneg_left (by linarith) hd.le
    linarith

/-- The datapath is its estimate, corrected. -/
theorem udivrem21Datapath_eq {u1 u0 d v q1 r : Word} (hq1 : q1 = hiLimb (digitEstimate v u1 u0) + 1)
    (hr : r = u0 - q1 * d) :
    udivrem21Datapath u1 u0 d v = correctDigit (r > loLimb (digitEstimate v u1 u0)) d q1 r := by
  subst hq1 hr
  rfl

/-- The estimate of the 2-by-1 step fits two limbs, as `(v + B)·d` is below `B²`. -/
theorem toNat_digitEstimate21 {u1 d v : Word} (u0 : Word) (hu1 : u1.toNat < d.toNat)
    (hlo : d.toNat * (v.toNat + B) < B ^ 2) :
    (digitEstimate v u1 u0).toNat = v.toNat * u1.toNat + pair u1 u0 := by
  refine toNat_digitEstimate ?_
  calc v.toNat * u1.toNat + pair u1 u0 < v.toNat * u1.toNat + (u1.toNat * B + B) := by
        have hu0 : u0.toNat < B := u0.isLt
        unfold pair
        omega
    _ ≤ v.toNat * u1.toNat + (u1.toNat * B + B) + v.toNat := Nat.le_add_right _ _
    _ = (u1.toNat + 1) * (v.toNat + B) := by ring
    _ ≤ d.toNat * (v.toNat + B) := Nat.mul_le_mul_right _ hu1
    _ < B ^ 2 := hlo

theorem hiLimb_eq_intCast (x : BitVec 128) : hiLimb x = (((x.toNat / B : Nat) : ℤ) : Word) := by
  rw [← toNat_hiLimb, intCast_toNat]

/-- B is 0 as a limb. -/
theorem intCast_B : ((B : ℤ) : Word) = 0 := by decide

/-- Settles O44: the estimate is at most one too high or one too low, and the two corrections mend both. -/
theorem div21DatapathIsExact : Obligations.Div21DatapathIsExact := by
  unfold Obligations.Div21DatapathIsExact
  intro u1 u0 d v hd hu1 hv
  have hd0 : 0 < d.toNat := by omega
  have hlo : d.toNat * (v.toNat + B) < B ^ 2 := hv ▸ mul_recip21_lt hd0 d.isLt
  have hhi : B ^ 2 ≤ d.toNat * (v.toNat + B + 1) := hv ▸ le_mul_recip21 hd0 d.isLt
  have hE := toNat_digitEstimate21 u0 hu1 hlo
  rw [udivrem21Datapath_eq rfl rfl]
  generalize (digitEstimate v u1 u0) = E at *
  have hq0 : (loLimb E).toNat = E.toNat % B := toNat_loLimb E
  have hq1 : hiLimb E = (((E.toNat / B : Nat) : ℤ) : Word) := hiLimb_eq_intCast E
  have hq := Nat.div_add_mod' E.toNat B
  have hq0lt : E.toNat % B < B := Nat.mod_lt _ B_pos
  generalize E.toNat / B = q1, E.toNat % B = q0 at *
  obtain ⟨z, hz⟩ : ∃ z : ℤ, z = u1.toNat * B + u0.toNat - (q1 + 1) * d.toNat := ⟨_, rfl⟩
  obtain ⟨hle, habove, hroom⟩ := estimate21_bounds hd0 d.isLt hlo hhi hu1 u0.isLt hq0lt (hE.symm.trans hq.symm) hz
  have hr : u0 - (hiLimb E + 1) * d = (z : Word) := by
    rw [hz, hq1]
    simp only [Int.cast_sub, Int.cast_add, Int.cast_mul, Int.cast_one, intCast_B, intCast_toNat, mul_zero, zero_add]
  have hdlt : d.toNat < B := d.isLt
  have hzlt : z < 2 ^ 64 := by omega
  refine correctDigit_exact (y := q1 + 1) (z := z) (by omega) (pair_div_lt u0 hu1) ?_ ?_ hr hle hzlt (fun hneg => ?_)
    fun hbig h0 => ?_
  · rw [hz]
    push_cast
    ring
  · rw [hq1, Int.cast_add, Int.cast_one]
  · have htoNat := toNat_intCast_of_neg (w := 64) (by omega) hneg
    rw [← hr] at htoNat
    exact BitVec.lt_def.2 (by omega)
  · have htoNat := toNat_intCast_of_nonneg (w := 64) h0 hzlt
    rw [← hr] at htoNat
    have := BitVec.lt_def.1 hbig
    omega

end Sys2Proof.Machine
end

section
/-! PROOFS. The 3-by-2 reciprocal datapath (R136): from the 2-by-1 reciprocal of the top limb, one correction for `d0` in the
place of B, then one for its product with the reciprocal. -/

namespace Sys2Proof.Machine

/-- The first correction: `p` overflowed. -/
def recip32Top (d1 d0 v p : Word) : Word × Word :=
  if p < d0 then
    let x := if p ≥ d1 then (v - 1 - 1, p - d1) else (v - 1, p)
    (x.1, x.2 - d1)
  else (v, p)

/-- The second correction: adding `h`, the high limb of `v·d0`, overflowed; `l` is its low limb. -/
def recip32Low (d1 d0 v p h l : Word) : Word :=
  if p + h < h then
    if p + h > d1 ∨ (p + h = d1 ∧ l ≥ d0) then v - 1 - 1 else v - 1
  else v

/-- The datapath from a given 2-by-1 reciprocal of the top limb. -/
def recip32From (d1 d0 v : Word) : Word :=
  let x := recip32Top d1 d0 v (d1 * v + d0)
  recip32Low d1 d0 x.1 x.2 (hiLimb (mulWide x.1 d0)) (loLimb (mulWide x.1 d0))

/-- The datapath starts from the reciprocal of R114. The two sides are compared with a variable in its place: the kernel
would count down the `B` that `recip21` subtracts. -/
theorem recip32Datapath_eq :
    recip32Datapath = fun d1 d0 => recip32From d1 d0 (BitVec.ofNat 64 (recip21 d1.toNat)) := by
  delta recip32Datapath
  generalize recip21 = r
  revert r
  exact id fun r => rfl

/-- After the first correction `v` is the largest number with `(v + B)·d1 + d0` below `B²`, and `p` is their difference. -/
theorem recip32Top_spec {d1 d0 v p : Word} {V P : ℤ} (hd1 : 2 ^ 63 ≤ d1.toNat) (hv : v = (V : Word))
    (hp : p = (P : Word)) (hlo : (d0.toNat : ℤ) - d1.toNat ≤ P) (hhi : P < d0.toNat) :
    ∃ c : ℤ, 0 ≤ c ∧ (recip32Top d1 d0 v p).1 = ((V - c : ℤ) : Word) ∧
      (recip32Top d1 d0 v p).2 = ((P - c * d1.toNat : ℤ) : Word) ∧
      -(d1.toNat : ℤ) ≤ P - c * d1.toNat ∧ P - c * d1.toNat < 0 := by
  have hd1lt : d1.toNat < 2 ^ 64 := d1.isLt
  have hd0lt : d0.toNat < 2 ^ 64 := d0.isLt
  rcases lt_or_ge P 0 with hP | hP
  · have htoNat := toNat_intCast_of_neg (w := 64) (z := P) (by omega) hP
    rw [← hp] at htoNat
    have hno : ¬ p < d0 := fun h => by
      have := BitVec.lt_def.1 h
      omega
    unfold recip32Top
    rw [if_neg hno]
    exact ⟨0, le_rfl, by simpa using hv, by simpa using hp, by omega, by omega⟩
  · have htoNat := toNat_intCast_of_nonneg (w := 64) hP (by omega)
    rw [← hp] at htoNat
    have hyes : p < d0 := BitVec.lt_def.2 (by omega)
    unfold recip32Top
    rw [if_pos hyes]
    by_cases hpd : p ≥ d1
    · have : d1.toNat ≤ p.toNat := hpd
      rw [if_pos hpd]
      refine ⟨2, by decide, ?_, ?_, by omega, by omega⟩
      · rw [hv, show V - 2 = V - 1 - 1 by ring]
        push_cast
        rfl
      · rw [hp, show P - 2 * d1.toNat = P - d1.toNat - d1.toNat by ring, Int.cast_sub, Int.cast_sub, intCast_toNat]
    · have : p.toNat < d1.toNat := BitVec.not_le.1 hpd
      rw [if_neg hpd]
      refine ⟨1, by decide, ?_, ?_, by omega, by omega⟩
      · rw [hv]
        push_cast
        rfl
      · rw [hp, Int.cast_sub, one_mul, intCast_toNat]

/-- The reciprocal is the one number whose product with the divisor is the last below `B³` (R131). -/
theorem eq_recip32 {D : Nat} {x : ℤ} (h0 : 0 < D) (hD : D < B ^ 2) (hlo : (D : ℤ) * (x + B) < B ^ 3)
    (hhi : (B : ℤ) ^ 3 ≤ D * (x + B + 1)) : x = recip32 D := by
  have hlo' : (D : ℤ) * (recip32 D + B) < B ^ 3 := by exact_mod_cast mul_recip32_lt h0 hD
  have hhi' : (B : ℤ) ^ 3 ≤ D * (recip32 D + B + 1) := by exact_mod_cast le_mul_recip32 h0 hD
  have hle := lt_of_mul_lt_mul_left (hlo.trans_le hhi') (Int.natCast_nonneg D)
  have hge := lt_of_mul_lt_mul_left (hlo'.trans_le hhi) (Int.natCast_nonneg D)
  omega

/-- Where the sum of two limbs overflowed, seen on the first as an integer. -/
theorem add_lt_iff {p h : Word} {P : ℤ} (hp : p = (P : Word)) (hlo : -2 ^ 64 ≤ P) (hhi : P < 0) :
    p + h < h ↔ 0 ≤ P + h.toNat := by
  have hh : h.toNat < 2 ^ 64 := h.isLt
  have hcast : p + h = ((P + h.toNat : ℤ) : Word) := by rw [hp, Int.cast_add, intCast_toNat]
  rcases lt_or_ge (P + h.toNat) 0 with hP | hP
  · have htoNat := toNat_intCast_of_neg (w := 64) (z := P + h.toNat) (by omega) hP
    rw [← hcast] at htoNat
    rw [BitVec.lt_def]
    omega
  · have htoNat := toNat_intCast_of_nonneg (w := 64) (z := P + h.toNat) hP (by omega)
    rw [← hcast] at htoNat
    rw [BitVec.lt_def]
    omega

/-- Two limbs compared as a two-limb number. -/
theorem pair_le_pair_iff {a b c d : Word} : pair c d ≤ pair a b ↔ a > c ∨ (a = c ∧ b ≥ d) := by
  have hb : b.toNat < B := b.isLt
  have hd : d.toNat < B := d.isLt
  unfold pair B at *
  rw [gt_iff_lt, BitVec.lt_def, BitVec.toNat_eq, ge_iff_le, BitVec.le_def]
  omega

/-- The second correction: a remainder `B·(P + h) + l` that is not negative is brought below 0 by one divisor or two. -/
theorem recip32Low_spec {d1 v p : Word} {V P : ℤ} (d0 h l : Word) (hd1 : 2 ^ 63 ≤ d1.toNat) (hv : v = (V : Word))
    (hp : p = (P : Word)) (hlo : -(d1.toNat : ℤ) ≤ P) (hhi : P < 0) :
    ∃ c : ℤ, recip32Low d1 d0 v p h l = ((V - c : ℤ) : Word) ∧
      B * P + pair h l - c * pair d1 d0 < 0 ∧ 0 ≤ B * P + pair h l - (c - 1) * pair d1 d0 := by
  have hd1lt := d1.isLt
  have hd0lt := d0.isLt
  have hhlt := h.isLt
  have hllt := l.isLt
  have hover := add_lt_iff (h := h) hp (by omega) hhi
  unfold recip32Low
  by_cases hlt : p + h < h
  · have hP := hover.1 hlt
    have htoNat : ((p + h).toNat : ℤ) = P + h.toNat := by
      have hcast : p + h = ((P + h.toNat : ℤ) : Word) := by rw [hp, Int.cast_add, intCast_toNat]
      rw [hcast, toNat_intCast_of_nonneg hP (by omega)]
    have hiff := pair_le_pair_iff (a := p + h) (b := l) (c := d1) (d := d0)
    rw [if_pos hlt]
    unfold pair B at *
    by_cases hge : p + h > d1 ∨ (p + h = d1 ∧ l ≥ d0)
    · have hle := hiff.2 hge
      rw [if_pos hge]
      refine ⟨2, ?_, by omega, by omega⟩
      rw [hv, show V - 2 = V - 1 - 1 by ring, Int.cast_sub, Int.cast_sub, Int.cast_one]
    · have hgt := mt hiff.1 hge
      rw [if_neg hge]
      exact ⟨1, by rw [hv, Int.cast_sub, Int.cast_one], by omega, by omega⟩
  · have hP := mt hover.2 hlt
    rw [if_neg hlt]
    unfold pair B at *
    exact ⟨0, by rw [hv, Int.cast_sub, Int.cast_zero, sub_zero], by omega, by omega⟩

theorem pair_hiLimb_loLimb (x : BitVec 128) : pair (hiLimb x) (loLimb x) = x.toNat := by
  rw [pair, toNat_hiLimb, toNat_loLimb, Nat.div_add_mod']

/-- The bound the first correction aims at is above the reciprocal: it leaves out `recip32 D · d0` (R131). -/
theorem recip32_mul_add_lt {d1 d0 : Nat} (h0 : 0 < d1 * B + d0) (hD : d1 * B + d0 < B ^ 2) :
    (recip32 (d1 * B + d0) + B) * d1 + d0 < B ^ 2 := by
  refine Nat.lt_of_mul_lt_mul_left (a := B) ?_
  calc B * ((recip32 (d1 * B + d0) + B) * d1 + d0)
      ≤ B * ((recip32 (d1 * B + d0) + B) * d1 + d0) + recip32 (d1 * B + d0) * d0 := Nat.le_add_right _ _
    _ = (d1 * B + d0) * (recip32 (d1 * B + d0) + B) := by ring
    _ < B ^ 3 := mul_recip32_lt h0 hD
    _ = B * B ^ 2 := pow_succ' _ _

/-- The two corrections, their differences added up, reach the reciprocal (R131, R136). -/
theorem toNat_recip32From {d1 v : Word} (d0 : Word) (hd1 : 2 ^ 63 ≤ d1.toNat) (hv : v.toNat = recip21 d1.toNat) :
    (recip32From d1 d0 v).toNat = recip32 (pair d1 d0) := by
  have h0 : 0 < d1.toNat := by omega
  have hpos : 0 < pair d1 d0 := Nat.add_pos_left (Nat.mul_pos h0 B_pos) _
  have hlo : (d1.toNat : ℤ) * (v.toNat + B) < (B : ℤ) ^ 2 := by rw [hv]; exact_mod_cast mul_recip21_lt h0 d1.isLt
  have hhi : (B : ℤ) ^ 2 ≤ d1.toNat * (v.toNat + B + 1) := by rw [hv]; exact_mod_cast le_mul_recip21 h0 d1.isLt
  have hR : ((recip32 (pair d1 d0) : ℤ) + B) * d1.toNat + d0.toNat < (B : ℤ) ^ 2 := by
    exact_mod_cast recip32_mul_add_lt hpos (pair_lt d1 d0)
  have hvlt : (v.toNat : ℤ) < 2 ^ 64 := by exact_mod_cast v.isLt
  have hp : d1 * v + d0 = ((d1.toNat * (v.toNat + B) + d0.toNat - B ^ 2 : ℤ) : Word) := by
    simp only [Int.cast_sub, Int.cast_add, Int.cast_mul, Int.cast_pow, intCast_B, intCast_toNat, add_zero, ne_eq,
      OfNat.ofNat_ne_zero, not_false_eq_true, zero_pow, sub_zero]
  unfold recip32From
  obtain ⟨c, hc, hx1, hx2, hPlo, hPhi⟩ := recip32Top_spec hd1 (intCast_toNat v).symm hp (by linarith) (by linarith)
  generalize recip32Top d1 d0 v (d1 * v + d0) = x at *
  have hVR : (recip32 (pair d1 d0) : ℤ) < v.toNat - c + 1 := by
    refine lt_of_mul_lt_mul_right (a := (d1.toNat : ℤ)) ?_ (Int.natCast_nonneg _)
    linarith
  have hVtoNat : (x.1.toNat : ℤ) = v.toNat - c := by
    rw [hx1, toNat_intCast_of_nonneg (by omega) (by omega)]
  obtain ⟨e, hres, hlow, hhigh⟩ :=
    recip32Low_spec d0 (hiLimb (mulWide x.1 d0)) (loLimb (mulWide x.1 d0)) hd1 hx1 hx2 hPlo hPhi
  rw [pair_hiLimb_loLimb, toNat_mulWide, Nat.cast_mul, hVtoNat] at hlow hhigh
  have hpair : (pair d1 d0 : ℤ) = d1.toNat * B + d0.toNat := by unfold pair; push_cast; rfl
  have hexact : (v.toNat : ℤ) - c - e = recip32 (pair d1 d0) := by
    refine eq_recip32 hpos (pair_lt d1 d0) ?_ ?_
    · rw [hpair] at hlow ⊢
      linarith
    · rw [hpair] at hhigh ⊢
      linarith
  rw [hres, hexact, Int.cast_natCast, BitVec.natCast_eq_ofNat, toNat_ofNat_of_lt (recip32_lt (le_pair hd1 d0))]

/-- Settles O45: RECIP32's datapath starts from the 2-by-1 reciprocal and its corrections are exact. -/
theorem recip32DatapathIsExact : Obligations.Recip32DatapathIsExact := by
  unfold Obligations.Recip32DatapathIsExact
  intro d1 d0 hd1
  rw [recip32Datapath_eq]
  exact toNat_recip32From d0 hd1 (toNat_ofNat_of_lt (recip21_lt hd1))

end Sys2Proof.Machine
end

section
/-! PROOFS. The 3-by-2 reference step (R139). -/

namespace Sys2Proof.Machine

/-- `b` times the remainder of the 3-by-2 estimate, but for the digit's low limb, is less than `(b² − D)²/b`, because the
dividend's high limbs are below the divisor: either `u2 < d1`, or `u2 = d1` and `u1 < d0`. -/
theorem estimate32_excess_lt {b D d1 d0 v u2 u1 u0 : ℤ} (hD : D = d1 * b + d0) (hDb : D < b ^ 2) (hd1 : 1 ≤ d1)
    (hd0 : 0 ≤ d0) (hd0b : d0 < b) (hv : 0 ≤ v) (hlo : D * (v + b) < b ^ 3) (hhi : b ^ 3 ≤ D * (v + b + 1))
    (hu2 : 0 ≤ u2) (hu1 : u1 < b) (hu0 : u0 < b) (hu : u2 < d1 ∨ (u2 = d1 ∧ u1 < d0)) :
    b * ((b ^ 3 - D * (v + b)) * u2 + u1 * (b ^ 2 - D) + b * u0 - b * D) < (b ^ 2 - D) ^ 2 := by
  have hb : 0 < b := hd0.trans_lt hd0b
  have hD0 : 0 < D := by nlinarith
  have he : 0 < b ^ 2 - D := by linarith
  have hbu0 : b * u0 ≤ b * (b - 1) := mul_le_mul_of_nonneg_left (by linarith) hb.le
  obtain hlt | ⟨rfl, hlt⟩ := hu
  · have hku2 : (b ^ 3 - D * (v + b)) * u2 ≤ D * (d1 - 1) := by
      refine (mul_le_mul_of_nonneg_right (by linarith) hu2).trans (mul_le_mul_of_nonneg_left (by linarith) hD0.le)
    have hu1e : u1 * (b ^ 2 - D) ≤ (b - 1) * (b ^ 2 - D) := mul_le_mul_of_nonneg_right (by linarith) he.le
    have hDd1 : D * (d1 * b) ≤ D * D := mul_le_mul_of_nonneg_left (by linarith) hD0.le
    calc _ ≤ b * (D * (d1 - 1) + (b - 1) * (b ^ 2 - D) + b * (b - 1) - b * D) :=
          mul_le_mul_of_nonneg_left (by linarith) hb.le
      _ = D * (d1 * b) - D * D + (b ^ 2 - D) ^ 2 - b ^ 2 := by ring
      _ < (b ^ 2 - D) ^ 2 := by nlinarith
  · have hu1e : u1 * (b ^ 2 - D) ≤ (d0 - 1) * (b ^ 2 - D) := mul_le_mul_of_nonneg_right (by linarith) he.le
    obtain ⟨j, hj⟩ : ∃ j, j = D - (b ^ 3 - D * (v + b)) := ⟨_, rfl⟩
    have hj0 : 0 ≤ j := by linarith
    have hvD : 0 ≤ v * D := mul_nonneg hv hD0.le
    have hfj : (b - d0) * (j - v * D) ≤ b * j :=
      (mul_le_mul_of_nonneg_left (by linarith : j - v * D ≤ j) (by linarith)).trans
        (mul_le_mul_of_nonneg_right (by linarith) hj0)
    have hbj : b * j ≤ u2 * (b * j) := le_mul_of_one_le_left (mul_nonneg hb.le hj0) hd1
    calc _ ≤ b * ((b ^ 3 - D * (v + b)) * u2 + (d0 - 1) * (b ^ 2 - D) + b * (b - 1) - b * D) :=
          mul_le_mul_of_nonneg_left (by linarith) hb.le
      _ = (b ^ 2 - D) ^ 2 - b ^ 2 - u2 * (b * j) + (b - d0) * (j - v * D) := by rw [hj, hD]; ring
      _ < (b ^ 2 - D) ^ 2 := by nlinarith

/-- The first estimate of the 3-by-2 step: the remainder it leaves is at least `−D` and at least `q0·b − b²`, and does not
reach both `b² − D` and `q0·b`. -/
theorem estimate32_bounds {b D d1 d0 v u2 u1 u0 q1 q0 : Nat} {z : ℤ} (hD : D = d1 * b + d0) (hDb : D < b ^ 2)
    (hd1 : 1 ≤ d1) (hd0 : d0 < b) (hlo : D * (v + b) < b ^ 3) (hhi : b ^ 3 ≤ D * (v + b + 1)) (hu : u2 * b + u1 < D)
    (hu1 : u1 < b) (hu0 : u0 < b) (hq0 : q0 < b) (hq : v * u2 + (u2 * b + u1) = q1 * b + q0)
    (hz : z = u2 * b ^ 2 + u1 * b + u0 - (q1 + 1) * D) :
    -D ≤ z ∧ (q0 : ℤ) * b - b ^ 2 ≤ z ∧ (z < b ^ 2 - D ∨ z < q0 * b) := by
  have hcases : u2 < d1 ∨ (u2 = d1 ∧ u1 < d0) := by
    rcases lt_or_ge u2 d1 with h | h
    · exact .inl h
    · have hle : u2 ≤ d1 := by
        by_contra hgt
        have := Nat.mul_le_mul_right b (not_le.1 hgt)
        rw [Nat.succ_mul] at this
        omega
      obtain rfl := le_antisymm hle h
      exact .inr ⟨rfl, by omega⟩
  have hb : (0 : ℤ) < b := by exact_mod_cast (Nat.zero_le d0).trans_lt hd0
  zify at *
  have hexcess := estimate32_excess_lt hD hDb hd1 (by positivity) hd0 (by positivity) hlo hhi (by positivity) hu1 hu0 hcases
  have hbz : (b : ℤ) * z =
      (b ^ 3 - D * (v + b)) * u2 + u1 * (b ^ 2 - D) + b * u0 + D * q0 - b * D := by
    rw [hz]
    linear_combination (D : ℤ) * hq
  have hku2 : 0 ≤ ((b : ℤ) ^ 3 - D * (v + b)) * u2 := mul_nonneg (by linarith) (by positivity)
  have hu1e : 0 ≤ (u1 : ℤ) * (b ^ 2 - D) := mul_nonneg (by positivity) (by linarith)
  have hbu0 : (0 : ℤ) ≤ b * u0 := by positivity
  refine ⟨?_, ?_, ?_⟩
  · have hDq0 : (0 : ℤ) ≤ D * q0 := by positivity
    exact le_of_mul_le_mul_left (by linarith : (b : ℤ) * -D ≤ b * z) hb
  · have hroom : 0 ≤ ((b : ℤ) ^ 2 - D) * (b - q0) := mul_nonneg (by linarith) (by linarith)
    refine le_of_mul_le_mul_left (?_ : (b : ℤ) * (q0 * b - b ^ 2) ≤ b * z) hb
    linarith
  · by_contra h
    obtain ⟨hzD, hzq⟩ := not_or.1 h
    have hz1 : ((b : ℤ) ^ 2 - D) * (b ^ 2 - D) ≤ (b ^ 2 - D) * z := mul_le_mul_of_nonneg_left (by linarith) (by linarith)
    have hz2 : (D : ℤ) * (q0 * b) ≤ D * z := mul_le_mul_of_nonneg_left (by linarith) (by positivity)
    have hbbz : (b : ℤ) * (b * z) = b * ((b ^ 3 - D * (v + b)) * u2 + u1 * (b ^ 2 - D) + b * u0 - b * D) + D * (q0 * b) := by
      rw [hbz]
      ring
    linarith

/-- The datapath is its estimate, corrected. -/
theorem udivrem32Datapath_eq {u2 u1 u0 d1 d0 v : Word} {D r : BitVec 128} (hD : D = (d1 ++ d0 : BitVec 128))
    (hr : r = ((u1 - hiLimb (digitEstimate v u2 u1) * d1) ++ u0 : BitVec 128) -
      mulWide d0 (hiLimb (digitEstimate v u2 u1)) - D) :
    udivrem32Datapath u2 u1 u0 d1 d0 v =
      correctDigit (hiLimb r ≥ loLimb (digitEstimate v u2 u1)) D (hiLimb (digitEstimate v u2 u1) + 1) r := by
  subst hD hr
  rfl

/-- The estimate of the 3-by-2 step fits two limbs, as `(v + B)·D` is below `B³`. -/
theorem toNat_digitEstimate32 {u2 u1 v : Word} {D : Nat} (hu : pair u2 u1 < D) (hlo : D * (v.toNat + B) < B ^ 3) :
    (digitEstimate v u2 u1).toNat = v.toNat * u2.toNat + pair u2 u1 := by
  refine toNat_digitEstimate (Nat.lt_of_mul_lt_mul_left (a := B) ?_)
  calc B * (v.toNat * u2.toNat + pair u2 u1)
      ≤ B * (v.toNat * u2.toNat + pair u2 u1) + u1.toNat * v.toNat := Nat.le_add_right _ _
    _ = pair u2 u1 * (v.toNat + B) := by rw [pair]; ring
    _ ≤ D * (v.toNat + B) := Nat.mul_le_mul_right _ hu.le
    _ < B ^ 3 := hlo
    _ = B * B ^ 2 := pow_succ' _ _

/-! ## Two-limb words as integers -/

/-- `B²` is 0 as a two-limb word. -/
theorem intCast_B_mul_B : ((B * B : ℤ) : BitVec 128) = 0 := by decide

theorem mulWide_eq_intCast (x y : Word) : mulWide x y = ((x.toNat * y.toNat : ℤ) : BitVec 128) := by
  rw [← intCast_toNat (mulWide x y), toNat_mulWide, Nat.cast_mul]

theorem append_eq_intCast (a b : Word) : (a ++ b : BitVec 128) = ((a.toNat * B + b.toNat : ℤ) : BitVec 128) := by
  rw [← intCast_toNat (a ++ b : BitVec 128), toNat_append, pair]
  push_cast
  rfl

/-- A limb's multiples of B vanish above the low limb. -/
theorem intCast_append (x : ℤ) (b : Word) :
    ((x : Word) ++ b : BitVec 128) = ((x * B + b.toNat : ℤ) : BitVec 128) := by
  have hx : x = x % 2 ^ 64 + B * (x / 2 ^ 64) := (Int.emod_add_mul_ediv x (2 ^ 64)).symm
  rw [append_eq_intCast, toNat_intCast]
  conv_rhs => rw [hx]
  rw [show (x % 2 ^ 64 + B * (x / 2 ^ 64)) * (B : ℤ) + b.toNat = x % 2 ^ 64 * B + b.toNat + B * B * (x / 2 ^ 64) by ring,
    Int.cast_add (x % 2 ^ 64 * B + b.toNat), Int.cast_mul (B * B : ℤ), intCast_B_mul_B, zero_mul, add_zero]

/-- The remainder as the datapath computes it, modulo `B²`: the top limb of the dividend has dropped out. -/
theorem remainder32_eq_intCast (u2 u1 u0 d1 d0 q : Word) :
    ((u1 - q * d1) ++ u0 : BitVec 128) - mulWide d0 q - (d1 ++ d0 : BitVec 128) =
      ((u2.toNat * B ^ 2 + u1.toNat * B + u0.toNat - (q.toNat + 1) * (d1.toNat * B + d0.toNat) : ℤ) : BitVec 128) := by
  have hword : u1 - q * d1 = ((u1.toNat - q.toNat * d1.toNat : ℤ) : Word) := by
    simp only [Int.cast_sub, Int.cast_mul, intCast_toNat]
  have hz : (u2.toNat * B ^ 2 + u1.toNat * B + u0.toNat - (q.toNat + 1) * (d1.toNat * B + d0.toNat) : ℤ) =
      (u1.toNat - q.toNat * d1.toNat) * B + u0.toNat - d0.toNat * q.toNat - (d1.toNat * B + d0.toNat) +
        B * B * u2.toNat := by ring
  rw [hword, intCast_append, mulWide_eq_intCast, append_eq_intCast, ← Int.cast_sub, ← Int.cast_sub, hz,
    Int.cast_add _ (B * B * _ : ℤ), Int.cast_mul (B * B : ℤ), intCast_B_mul_B, zero_mul, add_zero]

/-- Settles O46: as in the 2-by-1 step, the two corrections mend the estimate. -/
theorem div32DatapathIsExact : Obligations.Div32DatapathIsExact := by
  unfold Obligations.Div32DatapathIsExact
  rintro u2 u1 u0 d1 d0 v D u hD rfl hd1 hu hv
  have hd1pos : 1 ≤ d1.toNat := by omega
  have hDword : (d1 ++ d0 : BitVec 128).toNat = D := by rw [toNat_append, hD, pair]
  have hD0 : 0 < D := Nat.zero_lt_of_lt hu
  have hDlt : D < B ^ 2 := by rw [hD]; exact pair_lt d1 d0
  have hlo : D * (v.toNat + B) < B ^ 3 := hv ▸ mul_recip32_lt hD0 hDlt
  have hhi : B ^ 3 ≤ D * (v.toNat + B + 1) := hv ▸ le_mul_recip32 hD0 hDlt
  have hE := toNat_digitEstimate32 hu hlo
  rw [udivrem32Datapath_eq rfl rfl]
  generalize digitEstimate v u2 u1 = E at *
  have hq0 : (loLimb E).toNat = E.toNat % B := toNat_loLimb E
  have hq1 : hiLimb E = (((E.toNat / B : Nat) : ℤ) : Word) := hiLimb_eq_intCast E
  have hq1Nat : (hiLimb E).toNat = E.toNat / B := toNat_hiLimb E
  have hq := Nat.div_add_mod' E.toNat B
  have hq0lt : E.toNat % B < B := Nat.mod_lt _ B_pos
  have hr := remainder32_eq_intCast u2 u1 u0 d1 d0 (hiLimb E)
  rw [hq1Nat] at hr
  generalize E.toNat / B = q1, E.toNat % B = q0 at *
  obtain ⟨z, hz⟩ : ∃ z : ℤ, z = u2.toNat * B ^ 2 + u1.toNat * B + u0.toNat - (q1 + 1) * D := ⟨_, rfl⟩
  obtain ⟨hle, habove, hroom⟩ := estimate32_bounds hD hDlt hd1pos d0.isLt hlo hhi hu u1.isLt u0.isLt hq0lt
    (hE.symm.trans hq.symm) hz
  have hrz : ((u1 - hiLimb E * d1) ++ u0 : BitVec 128) - mulWide d0 (hiLimb E) - (d1 ++ d0 : BitVec 128) =
      (z : BitVec 128) := by rw [hr, hz, hD]; push_cast; rfl
  generalize ((u1 - hiLimb E * d1) ++ u0 : BitVec 128) - mulWide d0 (hiLimb E) - (d1 ++ d0 : BitVec 128) = r at *
  have hbig : hiLimb r ≥ loLimb E ↔ q0 * B ≤ r.toNat := by
    rw [ge_iff_le, BitVec.le_def, toNat_hiLimb, hq0, Nat.le_div_iff_mul_le B_pos]
  have hDle : 2 ^ 128 ≤ 2 * D := by
    have := le_pair hd1 d0
    unfold pair B at *
    omega
  have hB : ((B : Nat) : ℤ) ^ 2 = 2 ^ 128 := by norm_num [B]
  have hq0B : (q0 : ℤ) * B < B ^ 2 := by
    rw [pow_two]
    exact_mod_cast Nat.mul_lt_mul_of_pos_right hq0lt B_pos
  have hzlt : z < 2 ^ 128 := by omega
  rw [← hDword] at hDle hle
  have hexact := correctDigit_exact (u := triple u2 u1 u0) (big := hiLimb r ≥ loLimb E) (d := (d1 ++ d0 : BitVec 128))
    (q := hiLimb E + 1) (y := q1 + 1) (z := z) hDle (by rw [hDword]; exact triple_div_lt u0 hu)
    (by rw [hDword, hz, triple]; push_cast; ring) (by rw [hq1, Int.cast_add, Int.cast_one]) hrz hle hzlt
    (fun hneg => ?_) fun hge h0 => ?_
  · rw [hDword] at hexact
    exact hexact
  · have htoNat := toNat_intCast_of_neg (w := 128) (by omega) hneg
    rw [← hrz] at htoNat
    exact hbig.2 (by omega)
  · have htoNat := toNat_intCast_of_nonneg (w := 128) h0 hzlt
    rw [← hrz] at htoNat
    have hge := hbig.1 hge
    rw [hDword]
    omega

end Sys2Proof.Machine
end

section
/-! PROOFS. One digit of Algorithm D (R162–R164). -/

namespace Sys2Proof.Machine

/-! ## The estimate -/

/-- The estimate from the top limbs: `D2` and `T` are divisor and window without their `P` low places. It is never too
low, and at most one too high, because the divisor is at least `b·P`. -/
theorem quot_le_estimate {P V W T D2 : Nat} (hV : D2 * P ≤ V) (hW : W < (T + 1) * P) (hD2 : 0 < D2) : W / V ≤ T / D2 := by
  refine (Nat.le_div_iff_mul_le hD2).2 (Nat.le_of_lt_succ (Nat.lt_of_mul_lt_mul_right (a := P) ?_))
  calc W / V * D2 * P = W / V * (D2 * P) := Nat.mul_assoc _ _ _
    _ ≤ W / V * V := Nat.mul_le_mul_left _ hV
    _ ≤ W := Nat.div_mul_le_self _ _
    _ < (T + 1) * P := hW

/-- A digit that is at most `b` and does not exceed the window by its high limbs is at most one too high. -/
theorem le_quot_add_one {b P V W D2 q : Nat} (hV0 : D2 * P ≤ V) (hV : V < (D2 + 1) * P) (hD2 : b ≤ D2) (hq : q ≤ b)
    (hfit : q * D2 * P ≤ W) : q ≤ W / V + 1 := by
  have hpos : 0 < P := Nat.pos_of_ne_zero (by rintro rfl; omega)
  rcases Nat.eq_zero_or_pos V with rfl | hVpos
  · have : D2 * P = 0 := Nat.le_zero.1 hV0
    have : D2 = 0 := (Nat.mul_eq_zero.1 this).resolve_right hpos.ne'
    omega
  · have hqV : q * V ≤ W + V :=
      calc q * V ≤ q * ((D2 + 1) * P) := Nat.mul_le_mul_left _ hV.le
        _ = q * D2 * P + q * P := by ring
        _ ≤ W + V := Nat.add_le_add hfit ((Nat.mul_le_mul_right P (hq.trans hD2)).trans hV0)
    rw [← Nat.add_div_right W hVpos]
    exact (Nat.le_div_iff_mul_le hVpos).2 hqV

/-- R162's estimate, of a window below `b` divisors. -/
theorem estimateDigit_bounds {P V W D2 : Nat} {u2 u1 u0 : Word} (hV0 : D2 * P ≤ V) (hV : V < (D2 + 1) * P)
    (hW0 : triple u2 u1 u0 * P ≤ W) (hW : W < (triple u2 u1 u0 + 1) * P) (hD2 : B ≤ D2) (hlt : W < V * B) :
    W / V ≤ estimateDigit D2 u2 u1 u0 ∧ estimateDigit D2 u2 u1 u0 ≤ W / V + 1 := by
  have hD2pos : 0 < D2 := B_pos.trans_le hD2
  unfold estimateDigit
  split
  · have hquot : W / V < B := Nat.div_lt_of_lt_mul hlt
    refine ⟨Nat.le_sub_one_of_lt hquot, le_quot_add_one hV0 hV hD2 (Nat.sub_le _ _) (le_trans ?_ hW0)⟩
    refine Nat.mul_le_mul_right P ?_
    rw [triple_eq, ‹pair u2 u1 = D2›, Nat.mul_comm]
    exact (Nat.mul_le_mul_left _ (Nat.sub_le _ _)).trans (Nat.le_add_right _ _)
  · have hfit : triple u2 u1 u0 / D2 * D2 ≤ triple u2 u1 u0 := Nat.div_mul_le_self _ _
    refine ⟨quot_le_estimate hV0 hW hD2pos, le_quot_add_one hV0 hV hD2 ?_ ((Nat.mul_le_mul_right P hfit).trans hW0)⟩
    refine Nat.le_of_lt_succ (Nat.div_lt_of_lt_mul (Nat.lt_of_mul_lt_mul_right (a := P) ?_))
    calc triple u2 u1 u0 * P ≤ W := hW0
      _ < V * B := hlt
      _ ≤ (D2 + 1) * P * B := Nat.mul_le_mul_right _ hV.le
      _ = (D2 * B + B) * P := by ring
      _ ≤ D2 * (B + 1) * P := Nat.mul_le_mul_right _ (by rw [Nat.mul_add_one]; exact Nat.add_le_add_left hD2 _)

/-! ## The add-back -/

theorem addBack_of_nonneg (Dv bound qhat : Nat) {t : ℤ} (h : 0 ≤ t) : addBack Dv bound qhat t = (qhat, t) := by
  cases bound with
  | zero => rfl
  | succ bound => exact if_neg (not_lt.2 h)

theorem addBack_of_neg (Dv bound qhat : Nat) {t : ℤ} (h : t < 0) :
    addBack Dv (bound + 1) qhat t = addBack Dv bound (qhat - 1) (t + Dv) := if_pos h

/-- An estimate at most one too high takes at most one add-back. -/
theorem addBack_exact {V W qhat : Nat} (hV : 0 < V) (hlo : W / V ≤ qhat) (hhi : qhat ≤ W / V + 1) :
    addBack V addBackBound qhat ((W : ℤ) - qhat * V) = (W / V, ((W % V : Nat) : ℤ)) := by
  have hW : (W : ℤ) = (W / V : Nat) * V + (W % V : Nat) := by exact_mod_cast (Nat.div_add_mod' W V).symm
  have hrem : ((W % V : Nat) : ℤ) < V := by exact_mod_cast Nat.mod_lt W hV
  obtain rfl | rfl : qhat = W / V ∨ qhat = W / V + 1 := by omega
  · have ht : (W : ℤ) - (W / V : Nat) * V = (W % V : Nat) := by linarith
    rw [ht, addBack_of_nonneg _ _ _ (Int.natCast_nonneg _)]
  · have ht : (W : ℤ) - (W / V + 1 : Nat) * V = (W % V : Nat) - V := by push_cast at hW ⊢; linarith
    rw [ht, addBackBound, addBack_of_neg _ _ _ (by linarith), Int.sub_add_cancel, Nat.add_sub_cancel,
      addBack_of_nonneg _ _ _ (Int.natCast_nonneg _)]

/-! ## The window -/

variable {w : List Word} {j n t : Nat}

theorem length_window (h : j + n < w.length) : (window w j n).length = n + 1 := by
  rw [window, List.length_take_of_le]
  rw [List.length_drop]
  omega

theorem getD_window {k : Nat} (hk : k ≤ n) : (window w j n).getD k 0 = w.getD (j + k) 0 := by
  simp [window, List.getD_eq_getElem?_getD, List.getElem?_take_of_lt (Nat.lt_succ_of_le hk)]

theorem length_setWindow (h : j + n < w.length) : (setWindow w j n t).length = w.length := by
  simp only [setWindow, List.length_append, List.length_take, List.length_drop, length_limbs]
  omega

theorem window_setWindow (h : j + n < w.length) : window (setWindow w j n t) j n = limbs (n + 1) t := by
  have htake : (w.take j).length = j := List.length_take_of_le (by omega)
  rw [window, setWindow, List.append_assoc, List.drop_left' htake, List.take_left' (length_limbs _ _)]

/-- The limbs outside the window stay. -/
theorem getD_setWindow {i : Nat} (h : j + n < w.length) (hi : i < j ∨ j + n < i) :
    (setWindow w j n t).getD i 0 = w.getD i 0 := by
  have htake : (w.take j).length = j := List.length_take_of_le (by omega)
  have hmid : (w.take j ++ limbs (n + 1) t).length = j + n + 1 := by rw [List.length_append, htake, length_limbs]; omega
  rw [setWindow, List.getD_eq_getElem?_getD, List.getD_eq_getElem?_getD]
  obtain hi | hi := hi
  · rw [List.append_assoc, List.getElem?_append_left (htake.symm ▸ hi), List.getElem?_take_of_lt hi]
  · rw [List.getElem?_append_right (by omega), hmid, List.getElem?_drop]
    congr 2
    omega

/-- A value split at limb `i`. -/
theorem val_div_pow (ws : List Word) (i : Nat) : val ws / B ^ i = (ws.getD i 0).toNat + B * (val ws / B ^ (i + 1)) := by
  rw [toNat_getD, pow_succ, ← Nat.div_div_eq_div_mul, Nat.mod_add_div]

theorem val_div_pow_length {ws : List Word} {k : Nat} (h : ws.length ≤ k) : val ws / B ^ k = 0 :=
  Nat.div_eq_of_lt ((val_lt ws).trans_le (Nat.pow_le_pow_right B_pos h))

/-- The top two limbs of the divisor. -/
theorem val_div_pow_top2 {ws : List Word} (hn : 2 ≤ n) (hlen : ws.length ≤ n) :
    val ws / B ^ (n - 2) = pair (ws.getD (n - 1) 0) (ws.getD (n - 2) 0) := by
  obtain ⟨m, rfl⟩ := Nat.exists_eq_add_of_le' hn
  rw [show m + 2 - 2 = m from rfl, show m + 2 - 1 = m + 1 from rfl, val_div_pow, val_div_pow ws (m + 1),
    val_div_pow_length hlen, pair]
  ring

/-- The top three limbs of the window. -/
theorem val_window_div_pow_top3 (hn : 2 ≤ n) (h : j + n < w.length) :
    val (window w j n) / B ^ (n - 2) = triple (w.getD (j + n) 0) (w.getD (j + n - 1) 0) (w.getD (j + n - 2) 0) := by
  obtain ⟨m, rfl⟩ := Nat.exists_eq_add_of_le' hn
  rw [show m + 2 - 2 = m from rfl, show j + (m + 2) - 1 = j + (m + 1) from rfl, show j + (m + 2) - 2 = j + m from rfl,
    val_div_pow, val_div_pow _ (m + 1), val_div_pow _ (m + 2), val_div_pow_length (length_window h).le,
    getD_window (by omega), getD_window (by omega), getD_window le_rfl, triple]
  ring

/-- One digit, on a window below `Dv·B`: the exact quotient, and the remainder in the window. -/
theorem manyLimbDigit_eq {D2 : Nat} {dv : List Word} (hn : 2 ≤ n) (hlen : dv.length = n)
    (htop : 2 ^ 63 ≤ (dv.getD (n - 1) 0).toNat) (hD2 : D2 = pair (dv.getD (n - 1) 0) (dv.getD (n - 2) 0))
    (h : j + n < w.length) (hlt : val (window w j n) < val dv * B) :
    manyLimbDigit D2 (val dv) n j w =
        (val (window w j n) / val dv, setWindow w j n (val (window w j n) % val dv)) ∧
      val (window w j n) / val dv ≤ estimateDigit D2 (w.getD (j + n) 0) (w.getD (j + n - 1) 0) (w.getD (j + n - 2) 0) ∧
      estimateDigit D2 (w.getD (j + n) 0) (w.getD (j + n - 1) 0) (w.getD (j + n - 2) 0) ≤
        val (window w j n) / val dv + 1 := by
  have hP : 0 < B ^ (n - 2) := Nat.pow_pos B_pos
  have hD2' := hD2.trans (val_div_pow_top2 hn hlen.le).symm
  have hT := val_window_div_pow_top3 hn h
  have hB : B ≤ D2 := by
    have := le_pair htop (dv.getD (n - 2) 0)
    rw [← hD2] at this
    exact le_trans (by decide) this
  have hest := estimateDigit_bounds (D2 := D2) (V := val dv) (P := B ^ (n - 2)) (by rw [hD2']; exact Nat.div_mul_le_self _ _)
    (by rw [hD2', Nat.add_one_mul]; exact Nat.lt_div_mul_add hP) (by rw [← hT]; exact Nat.div_mul_le_self _ _)
    (by rw [← hT, Nat.add_one_mul]; exact Nat.lt_div_mul_add hP) hB hlt
  have hV : 0 < val dv := Nat.pos_of_ne_zero fun h0 => by simp [h0] at hlt
  obtain ⟨hlo, hhi⟩ := hest
  refine ⟨?_, hlo, hhi⟩
  simp only [manyLimbDigit, addBack_exact hV hlo hhi, Int.toNat_natCast]

/-- Settles O47, by `manyLimbDigit_eq` and what setting a window does. -/
theorem algorithmDDigitIsExact : Obligations.AlgorithmDDigitIsExact := by
  unfold Obligations.AlgorithmDDigitIsExact
  intro n j D2 dv w hn hlen htop hD2 h hlt
  obtain ⟨heq, hlo, hhi⟩ := manyLimbDigit_eq (by omega) hlen htop hD2 h hlt
  have hV : 0 < val dv := Nat.pos_of_ne_zero fun h0 => by simp [h0] at hlt
  have hrem : val (window w j n) % val dv < B ^ (n + 1) :=
    (Nat.mod_lt _ hV).trans ((val_lt dv).trans_le (Nat.pow_le_pow_right B_pos (by omega)))
  rw [heq]
  exact ⟨rfl, by rw [window_setWindow h, val_limbs_of_lt hrem], length_setWindow h, fun i hi => getD_setWindow h hi, hlo, hhi⟩

end Sys2Proof.Machine
end

section
/-! PROOFS. The loops of the reference driver: one digit a turn, from the top (R160, R161, R162, R165). -/

namespace Sys2Proof.Machine

variable {w : List Word} {n D2 : Nat}

theorem digitsVal_append (xs ys : List Nat) : digitsVal (xs ++ ys) = digitsVal xs + B ^ xs.length * digitsVal ys := by
  induction xs with
  | nil => simp [digitsVal]
  | cons x xs ih => simp only [List.cons_append, digitsVal, ih, List.length_cons, pow_succ]; ring

theorem digitsVal_append_singleton (xs : List Nat) (q : Nat) :
    digitsVal (xs ++ [q]) = digitsVal xs + B ^ xs.length * q := by
  rw [digitsVal_append, digitsVal, digitsVal, Nat.mul_zero, Nat.add_zero]

theorem val_take_add (ws : List Word) (j k : Nat) :
    val (ws.take (j + k)) = val (ws.take j) + B ^ j * val ((ws.drop j).take k) := by
  rw [← val_take_add_val_drop (ws.take (j + k)) j, List.take_take, Nat.min_eq_left (Nat.le_add_right j k), List.drop_take,
    Nat.add_sub_cancel_left]

theorem val_take_succ (ws : List Word) (j : Nat) :
    val (ws.take (j + 1)) = val (ws.take j) + B ^ j * (ws.getD j 0).toNat := by
  rw [val_take_add, val_take (ws.drop j), val_drop, pow_one, toNat_getD]

/-- The digits a loop finds stand below those it was given, and are quotient and remainder of what it was given by `d`. -/
theorem oneLimbLoop_spec (d : Nat) (w : List Word) (j rem : Nat) (qd : List Nat) :
    ∃ ds r, oneLimbLoop d w j rem qd = (ds ++ qd, r) ∧ ds.length = j ∧
      rem * B ^ j + val (w.take j) = digitsVal ds * d + r ∧ (0 < j → 0 < d → r < d) := by
  induction j generalizing rem qd with
  | zero => exact ⟨[], rem, rfl, rfl, by simp [digitsVal], fun h => absurd h (lt_irrefl 0)⟩
  | succ j ih =>
    obtain ⟨q, hq⟩ : ∃ q, q = (rem * B + (w.getD j 0).toNat) / d := ⟨_, rfl⟩
    obtain ⟨r', hr'⟩ : ∃ r', r' = (rem * B + (w.getD j 0).toNat) % d := ⟨_, rfl⟩
    have hstep : oneLimbLoop d w (j + 1) rem qd = oneLimbLoop d w j r' (q :: qd) := by rw [hq, hr']; rfl
    have hqr : q * d + r' = rem * B + (w.getD j 0).toNat := by rw [hq, hr', Nat.div_add_mod']
    obtain ⟨ds, r, hloop, hlen, hval, hlt⟩ := ih r' (q :: qd)
    refine ⟨ds ++ [q], r, by rw [hstep, hloop]; simp, by simp [hlen], ?_, fun _ hd => ?_⟩
    · calc rem * B ^ (j + 1) + val (w.take (j + 1))
          = (rem * B + (w.getD j 0).toNat) * B ^ j + val (w.take j) := by rw [val_take_succ]; ring
        _ = q * d * B ^ j + (r' * B ^ j + val (w.take j)) := by rw [← hqr]; ring
        _ = digitsVal (ds ++ [q]) * d + r := by rw [hval, digitsVal_append_singleton, hlen]; ring
    · rcases Nat.eq_zero_or_pos j with rfl | hj
      · have hr : r = r' := (Prod.mk.inj (hloop.symm.trans rfl : (_, r) = (_, r'))).2
        rw [hr, hr']
        exact Nat.mod_lt _ hd
      · exact hlt hj hd

/-- The two-limb loop is the short division, by a divisor of two limbs. -/
theorem twoLimbLoop_eq (D : Nat) (w : List Word) (j rem : Nat) (qd : List Nat) :
    twoLimbLoop D w j rem qd = oneLimbLoop D w j rem qd := by
  induction j generalizing rem qd with
  | zero => rfl
  | succ j ih => exact ih _ _

/-- The window's lowest limb, and the `n` limbs above it. -/
theorem val_window (w : List Word) (j n : Nat) :
    val (window w j n) = (w.getD j 0).toNat + B * val ((w.drop (j + 1)).take n) := by
  rw [window, Nat.add_comm n 1, val_take_add, val_take (w.drop j) 1, val_drop, pow_one, List.drop_drop, toNat_getD]

theorem take_setWindow {t : Nat} (h : j ≤ w.length) : (setWindow w j n t).take j = w.take j := by
  rw [setWindow, List.append_assoc, List.take_left' (List.length_take_of_le h)]

/-- The `n` limbs of a window set to a value below `B^n`. -/
theorem val_take_drop_setWindow {t : Nat} (h : j + n < w.length) (ht : t < B ^ n) :
    val (((setWindow w j n t).drop j).take n) = t := by
  have htake : ((setWindow w j n t).drop j).take n = (limbs (n + 1) t).take n := by
    rw [← window_setWindow h, window, List.take_take, Nat.min_eq_left (Nat.le_succ n)]
  have hlt : t < B ^ (n + 1) := ht.trans_le (Nat.pow_le_pow_right B_pos (Nat.le_succ n))
  rw [htake, val_take, val_limbs_of_lt hlt, Nat.mod_eq_of_lt ht]

/-- Algorithm D: from `n` limbs at `j` that are below the divisor, the digits and the last remainder. -/
theorem manyLimbLoop_spec {dv : List Word} (hn : 2 ≤ n) (hlen : dv.length = n)
    (htop : 2 ^ 63 ≤ (dv.getD (n - 1) 0).toNat) (hD2 : D2 = pair (dv.getD (n - 1) 0) (dv.getD (n - 2) 0)) (j : Nat)
    (w : List Word) (qd : List Nat) (hj : j + n ≤ w.length) (hlt : val ((w.drop j).take n) < val dv) :
    ∃ ds w', manyLimbLoop D2 (val dv) n j w qd = (ds ++ qd, w') ∧ ds.length = j ∧
      val (w.take (j + n)) = digitsVal ds * val dv + val (w'.take n) ∧ val (w'.take n) < val dv := by
  induction j generalizing w qd with
  | zero => exact ⟨[], w, rfl, rfl, by simp [digitsVal], hlt⟩
  | succ j ih =>
    have hjw : j + n < w.length := by omega
    have hltB : val (window w j n) < val dv * B := by
      have hlow : (w.getD j 0).toNat < B := (w.getD j 0).isLt
      calc val (window w j n) = (w.getD j 0).toNat + B * val ((w.drop (j + 1)).take n) := val_window w j n
        _ < B * (val ((w.drop (j + 1)).take n) + 1) := by rw [Nat.mul_add_one, Nat.add_comm]; gcongr
        _ ≤ val dv * B := by rw [Nat.mul_comm]; exact Nat.mul_le_mul_right _ hlt
    obtain ⟨q, hq⟩ : ∃ q, q = val (window w j n) / val dv := ⟨_, rfl⟩
    obtain ⟨r, hr⟩ : ∃ r, r = val (window w j n) % val dv := ⟨_, rfl⟩
    have hqr : q * val dv + r = val (window w j n) := by rw [hq, hr, Nat.div_add_mod']
    have hrlt : r < val dv := hr ▸ Nat.mod_lt _ (Nat.zero_lt_of_lt hlt)
    have hdigit : manyLimbDigit D2 (val dv) n j w = (q, setWindow w j n r) := by
      rw [hq, hr]
      exact (manyLimbDigit_eq hn hlen htop hD2 hjw hltB).1
    have hstep : manyLimbLoop D2 (val dv) n (j + 1) w qd =
        manyLimbLoop D2 (val dv) n j (setWindow w j n r) (q :: qd) := by
      rw [manyLimbLoop, hdigit]
    have hnew := val_take_drop_setWindow hjw (hrlt.trans (hlen ▸ val_lt dv))
    obtain ⟨ds, w', hloop, hds, hval, hrem⟩ := ih (setWindow w j n r) (q :: qd)
      ((Nat.le_of_lt hjw).trans_eq (length_setWindow hjw).symm) (by rwa [hnew])
    refine ⟨ds ++ [q], w', by rw [hstep, hloop]; simp, by simp [hds], ?_, hrem⟩
    rw [val_take_add, take_setWindow (by omega), hnew] at hval
    calc val (w.take (j + 1 + n)) = val (w.take j) + B ^ j * (q * val dv + r) := by
          rw [hqr, window, ← val_take_add]
          congr 2
          omega
      _ = B ^ j * q * val dv + (val (w.take j) + B ^ j * r) := by ring
      _ = digitsVal (ds ++ [q]) * val dv + val (w'.take n) := by rw [hval, digitsVal_append_singleton, hds]; ring

end Sys2Proof.Machine
end

section
/-! PROOFS. The reference driver: the digit count, the paths and the assembly (R152–R165, R167). -/

namespace Sys2Proof.Machine

variable {L : Nat} {us vs : List Word}

/-! ## The digit count -/

theorem val_lt_pow_significantLimbs (ws : List Word) : val ws < B ^ significantLimbs ws := by
  rcases Nat.eq_zero_or_pos (significantLimbs ws) with h | h
  · rw [h, significantLimbs_eq_zero_iff.1 h, pow_zero]
    exact Nat.one_pos
  · have htop : (ws.getD (significantLimbs ws - 1) 0).toNat < B := BitVec.isLt _
    calc val ws < ((ws.getD (significantLimbs ws - 1) 0).toNat + 1) * B ^ (significantLimbs ws - 1) := val_lt_topLimb ws
      _ ≤ B * B ^ (significantLimbs ws - 1) := Nat.mul_le_mul_right _ htop
      _ = B ^ significantLimbs ws := by rw [← pow_succ', Nat.sub_add_cancel h]

/-- A number with fewer significant limbs is smaller. -/
theorem val_lt_of_significantLimbs_lt (h : significantLimbs us < significantLimbs vs) : val us < val vs := by
  have hv : val vs ≠ 0 := mt significantLimbs_eq_zero_iff.2 (by omega)
  have htop : 0 < (vs.getD (significantLimbs vs - 1) 0).toNat :=
    Nat.pos_of_ne_zero (by simpa [BitVec.toNat_eq] using getD_significantLimbs_ne_zero hv)
  calc val us < B ^ significantLimbs us := val_lt_pow_significantLimbs us
    _ ≤ B ^ (significantLimbs vs - 1) := Nat.pow_le_pow_right B_pos (by omega)
    _ ≤ (vs.getD (significantLimbs vs - 1) 0).toNat * B ^ (significantLimbs vs - 1) := Nat.le_mul_of_pos_left _ htop
    _ ≤ val vs := getD_mul_pow_le_val _ _

/-- A list whose limb `i` is zero and that is below `B^(i+1)` is below the limb under it plus one. -/
theorem val_lt_of_getD_eq_zero {ws : List Word} {i : Nat} (h0 : ws.getD (i + 1) 0 = 0) (hlt : val ws < B ^ (i + 2)) :
    val ws < ((ws.getD i 0).toNat + 1) * B ^ i := by
  have hhigh : val ws / B ^ (i + 2) = 0 := Nat.div_eq_of_lt hlt
  have hsplit : val ws / B ^ i = (ws.getD i 0).toNat := by
    rw [val_div_pow, val_div_pow ws (i + 1), h0, hhigh]
    rfl
  rw [← hsplit, Nat.add_one_mul]
  exact Nat.lt_div_mul_add (Nat.pow_pos B_pos)

/-- The digit count the driver uses (R159). -/
def quotientDigits (L : Nat) (us vs : List Word) : Nat :=
  digitCount (significantLimbs us) (normalizeUV L us vs).n (normalizeUV L us vs).un (normalizeUV L us vs).vn

theorem significantLimbs_le_quotientDigits : significantLimbs us ≤ quotientDigits L us vs := by
  unfold quotientDigits digitCount
  split <;> omega

theorem quotientDigits_le (hulen : us.length = L) : quotientDigits L us vs ≤ L + 1 := by
  have hm := significantLimbs_le_length us
  unfold quotientDigits digitCount
  split <;> omega

/-- The normalized dividend is below the normalized divisor in the place above the last digit (R159). -/
theorem val_mul_shift_lt (hulen : us.length = L) (hvlen : vs.length = L) (hv : val vs ≠ 0)
    (hmn : (normalizeUV L us vs).n ≤ significantLimbs us) :
    val us * 2 ^ (normalizeUV L us vs).s <
      val vs * 2 ^ (normalizeUV L us vs).s * B ^ (quotientDigits L us vs - (normalizeUV L us vs).n) := by
  have hn := normalizeUV_n_pos L us hv
  have hs : 2 ^ (normalizeUV L us vs).s ≤ 2 ^ 63 := Nat.pow_le_pow_right (by decide) (normalizeUV_s_le L us vs)
  have hun := val_normalizeUV_un vs hulen
  have hvn := val_normalizeUV_vn us hvlen hv
  have hshift : val us * 2 ^ (normalizeUV L us vs).s < B ^ significantLimbs us * 2 ^ 63 :=
    Nat.mul_lt_mul_of_lt_of_le (val_lt_pow_significantLimbs us) hs (by decide)
  obtain ⟨m, hm⟩ : ∃ m, significantLimbs us = m + 1 := ⟨significantLimbs us - 1, by omega⟩
  obtain ⟨n, hn'⟩ : ∃ n, (normalizeUV L us vs).n = n + 1 := ⟨(normalizeUV L us vs).n - 1, by omega⟩
  unfold quotientDigits digitCount
  split
  · calc val us * 2 ^ (normalizeUV L us vs).s < B ^ significantLimbs us * 2 ^ 63 := hshift
      _ = 2 ^ 63 * B ^ ((normalizeUV L us vs).n - 1) * B ^ (significantLimbs us + 1 - (normalizeUV L us vs).n) := by
        rw [Nat.mul_assoc, ← pow_add, Nat.mul_comm]
        congr 2
        omega
      _ ≤ _ := Nat.mul_le_mul_right _ (le_val_mul_normalizeUV_shift L us hv)
  · rename_i h
    obtain ⟨hzero, htop⟩ := not_or.1 h
    rw [not_not, hm] at hzero
    rw [hm, Nat.add_sub_cancel, Nat.not_le] at htop
    rw [hm] at hshift hmn ⊢
    have hlt : val (normalizeUV L us vs).un < B ^ (m + 2) := by
      rw [hun]
      exact hshift.trans (Nat.mul_lt_mul_of_pos_left (by decide) (Nat.pow_pos B_pos))
    calc val us * 2 ^ (normalizeUV L us vs).s = val (normalizeUV L us vs).un := hun.symm
      _ < (((normalizeUV L us vs).un.getD m 0).toNat + 1) * B ^ m := val_lt_of_getD_eq_zero hzero hlt
      _ ≤ ((normalizeUV L us vs).vn.getD ((normalizeUV L us vs).n - 1) 0).toNat * B ^ m := Nat.mul_le_mul_right _ htop
      _ = ((normalizeUV L us vs).vn.getD ((normalizeUV L us vs).n - 1) 0).toNat * B ^ ((normalizeUV L us vs).n - 1) *
            B ^ (m + 1 - (normalizeUV L us vs).n) := by
        rw [Nat.mul_assoc, ← pow_add]
        congr 2
        omega
      _ ≤ val (normalizeUV L us vs).vn * B ^ (m + 1 - (normalizeUV L us vs).n) :=
        Nat.mul_le_mul_right _ (getD_mul_pow_le_val _ _)
      _ = _ := by rw [hvn]

/-- The digits read hold the whole normalized dividend (R159). -/
theorem val_take_quotientDigits (hulen : us.length = L) (hvlen : vs.length = L) (hv : val vs ≠ 0)
    (hmn : (normalizeUV L us vs).n ≤ significantLimbs us) :
    val ((normalizeUV L us vs).un.take (quotientDigits L us vs)) = val us * 2 ^ (normalizeUV L us vs).s := by
  have hnk : (normalizeUV L us vs).n ≤ quotientDigits L us vs := hmn.trans significantLimbs_le_quotientDigits
  have hlt : val us * 2 ^ (normalizeUV L us vs).s < B ^ quotientDigits L us vs :=
    calc _ < _ := val_mul_shift_lt hulen hvlen hv hmn
      _ ≤ B ^ (normalizeUV L us vs).n * B ^ (quotientDigits L us vs - (normalizeUV L us vs).n) :=
        Nat.mul_le_mul_right _ (val_mul_normalizeUV_shift_lt L us hv).le
      _ = B ^ quotientDigits L us vs := by rw [← pow_add, Nat.add_sub_cancel' hnk]
  rw [val_take, val_normalizeUV_un vs hulen, Nat.mod_eq_of_lt hlt]

/-- With no digit above the divisor's limbs the dividend is smaller (R159). -/
theorem val_lt_of_quotientDigits_le (hulen : us.length = L) (hvlen : vs.length = L) (hv : val vs ≠ 0)
    (hmn : (normalizeUV L us vs).n ≤ significantLimbs us) (hk : quotientDigits L us vs ≤ (normalizeUV L us vs).n) :
    val us < val vs := by
  have hlt := val_mul_shift_lt hulen hvlen hv hmn
  rw [Nat.sub_eq_zero_of_le hk, pow_zero, Nat.mul_one] at hlt
  exact Nat.lt_of_mul_lt_mul_right hlt

/-! ## The paths -/

/-- What the driver knows on each path (R152): the tests that led there, as far as the path's result needs them. -/
def DriverPath.Holds (L : Nat) (us vs : List Word) : DriverPath → Prop
  | .zeroDivisor => val vs = 0
  | .native => val vs ≠ 0
  | .shortDividend => val vs ≠ 0 ∧ significantLimbs us < significantLimbs vs
  | .unitDivisor => val vs = 1
  | .noDigits =>
    val vs ≠ 0 ∧ significantLimbs vs ≤ significantLimbs us ∧ quotientDigits L us vs ≤ significantLimbs vs
  | .oneLimb =>
    val vs ≠ 0 ∧ significantLimbs vs ≤ significantLimbs us ∧
      significantLimbs vs < quotientDigits L us vs ∧ significantLimbs vs = 1
  | .twoLimbs =>
    val vs ≠ 0 ∧ significantLimbs vs ≤ significantLimbs us ∧
      significantLimbs vs < quotientDigits L us vs ∧ significantLimbs vs = 2
  | .manyLimbs =>
    val vs ≠ 0 ∧ significantLimbs vs ≤ significantLimbs us ∧
      significantLimbs vs < quotientDigits L us vs ∧ 2 ≤ significantLimbs vs

theorem driverPath_holds (L : Nat) (us vs : List Word) : (driverPath L us vs).Holds L us vs := by
  have hpos : val vs ≠ 0 → significantLimbs vs ≠ 0 := mt significantLimbs_eq_zero_iff.1
  unfold driverPath
  dsimp only
  split_ifs with hzero hnative hshort hunit hdigits hone htwo
  · exact hzero
  · exact hzero
  · exact ⟨hzero, hshort⟩
  · exact hunit
  · exact ⟨hzero, not_lt.1 hshort, hdigits⟩
  · exact ⟨hzero, not_lt.1 hshort, not_le.1 hdigits, hone⟩
  · exact ⟨hzero, not_lt.1 hshort, not_le.1 hdigits, htwo⟩
  · exact ⟨hzero, not_lt.1 hshort, not_le.1 hdigits, by have := hpos hzero; omega⟩

/-! ## The result -/

/-- The quotient and the remainder, as the limbs the driver returns (R150). -/
def exactResult (L : Nat) (us vs : List Word) : List Word × List Word :=
  (limbs L (val us / val vs), limbs L (val us % val vs))

/-- Of the normalized operands the quotient is that of the operands, and the remainder is theirs shifted up (R106). -/
theorem assembleResult_eq {s r : Nat} {ds : List Nat} (hval : val us * 2 ^ s = digitsVal ds * (val vs * 2 ^ s) + r)
    (hr : r < val vs * 2 ^ s) : assembleResult L s ds r = exactResult L us vs := by
  have hpow : 0 < 2 ^ s := Nat.two_pow_pos s
  have hsum : r + val vs * 2 ^ s * digitsVal ds = val us * 2 ^ s := by rw [hval, Nat.add_comm, Nat.mul_comm]
  obtain ⟨hquot, hrem⟩ := (Nat.div_mod_unique (Nat.zero_lt_of_lt hr)).2 ⟨hsum, hr⟩
  rw [Nat.mul_div_mul_right _ _ hpow] at hquot
  rw [Nat.mul_mod_mul_right] at hrem
  rw [assembleResult, exactResult, hquot, ← hrem, Nat.shiftRight_eq_div_pow, Nat.mul_div_cancel _ hpow]

/-- A dividend below the divisor is the remainder. -/
theorem exactResult_of_lt (hulen : us.length = L) (h : val us < val vs) : exactResult L us vs = (limbs L 0, us) := by
  rw [exactResult, Nat.div_eq_of_lt h, Nat.mod_eq_of_lt h, limbs_eq_of_val_eq hulen rfl]

theorem exactResult_of_eq_one (hulen : us.length = L) (h : val vs = 1) : exactResult L us vs = (us, limbs L 0) := by
  rw [exactResult, h, Nat.div_one, Nat.mod_one, limbs_eq_of_val_eq hulen rfl]

/-- The digits and the last remainder of one of the loops are those of the normalized operands. -/
def LoopResult (L : Nat) (us vs : List Word) (ds : List Nat) (r : Nat) : Prop :=
  val us * 2 ^ (normalizeUV L us vs).s = digitsVal ds * (val vs * 2 ^ (normalizeUV L us vs).s) + r ∧
    r < val vs * 2 ^ (normalizeUV L us vs).s

/-- The short division by the whole divisor, from the top `i` limbs (R160, R161). -/
theorem loopResult_oneLimbLoop {d i rem : Nat} {w : List Word} (hd : d = val vs * 2 ^ (normalizeUV L us vs).s)
    (hw : val w = val us * 2 ^ (normalizeUV L us vs).s) (hrem : rem * B ^ i + val (w.take i) = val w) (hi : 0 < i)
    (hv : val vs ≠ 0) : LoopResult L us vs (oneLimbLoop d w i rem []).1 (oneLimbLoop d w i rem []).2 := by
  obtain ⟨ds, r, hloop, -, hval, hlt⟩ := oneLimbLoop_spec d w i rem []
  have hpos : 0 < d := hd ▸ Nat.mul_pos (Nat.pos_of_ne_zero hv) (Nat.two_pow_pos _)
  rw [hloop, List.append_nil]
  rw [hrem, hw] at hval
  subst hd
  exact ⟨hval, hlt hi hpos⟩

theorem val_of_length_le_succ {w : List Word} {i : Nat} (h : w.length ≤ i + 1) :
    val w = (w.getD i 0).toNat * B ^ i + val (w.take i) := by
  have hw := val_take_succ w i
  rw [List.take_of_length_le h] at hw
  rw [hw]
  ring

theorem val_of_length_le_add_two {w : List Word} {i : Nat} (h : w.length ≤ i + 2) :
    val w = pair (w.getD (i + 1) 0) (w.getD i 0) * B ^ i + val (w.take i) := by
  rw [val_of_length_le_succ h, val_take_succ, pair]
  ring

theorem getD_take {w : List Word} {i k : Nat} (h : i < k) : (w.take k).getD i 0 = w.getD i 0 := by
  rw [List.getD_eq_getElem?_getD, List.getElem?_take_of_lt h, List.getD_eq_getElem?_getD]

/-- The divisor's significant limbs hold all of it (R102). -/
theorem val_take_normalizeUV_vn (hvlen : vs.length = L) (hv : val vs ≠ 0) :
    val ((normalizeUV L us vs).vn.take (significantLimbs vs)) = val vs * 2 ^ (normalizeUV L us vs).s := by
  rw [val_take, val_normalizeUV_vn us hvlen hv]
  exact Nat.mod_eq_of_lt (val_mul_normalizeUV_shift_lt L us hv)

/-- Algorithm D from the top `n` limbs (R162). -/
theorem loopResult_manyLimbLoop {z : Normalized} {n k : Nat} (hz : z = normalizeUV L us vs) (hn : n = significantLimbs vs)
    (hk : k = quotientDigits L us vs) (hulen : us.length = L) (hvlen : vs.length = L) (hv : val vs ≠ 0)
    (hmn : n ≤ significantLimbs us) (hnk : n < k) (hn2 : 2 ≤ n) :
    LoopResult L us vs
      (manyLimbLoop (pair (z.vn.getD (n - 1) 0) (z.vn.getD (n - 2) 0)) (val (z.vn.take n)) n (k - n) (z.un.take k) []).1
      (val ((manyLimbLoop (pair (z.vn.getD (n - 1) 0) (z.vn.getD (n - 2) 0)) (val (z.vn.take n)) n (k - n) (z.un.take k)
        []).2.take n)) := by
  subst hz hn hk
  have hvlen' : (normalizeUV L us vs).vn.length = L := length_limbs _ _
  have hunlen : (normalizeUV L us vs).un.length = L + 1 := length_limbs _ _
  have hval := val_take_normalizeUV_vn (us := us) hvlen hv
  have hu := val_take_quotientDigits hulen hvlen hv hmn
  have hlt := val_mul_shift_lt hulen hvlen hv hmn
  have hk := quotientDigits_le (vs := vs) hulen
  have htop := le_getD_normalizeUV_vn us hvlen hv
  have hstart : val (((normalizeUV L us vs).un.take (quotientDigits L us vs)).drop
      (quotientDigits L us vs - significantLimbs vs) |>.take (significantLimbs vs)) <
        val ((normalizeUV L us vs).vn.take (significantLimbs vs)) := by
    rw [val_take, val_drop, hu, hval]
    refine (Nat.mod_le _ _).trans_lt (Nat.div_lt_of_lt_mul ?_)
    rw [Nat.mul_comm (B ^ _)]
    exact hlt
  obtain ⟨ds, w', hloop, -, hsum, hrem⟩ := manyLimbLoop_spec (dv := (normalizeUV L us vs).vn.take (significantLimbs vs)) hn2
    (List.length_take_of_le (hvlen'.symm ▸ hvlen ▸ significantLimbs_le_length vs))
    (by rw [getD_take (by omega)]; exact htop) rfl (quotientDigits L us vs - significantLimbs vs)
    ((normalizeUV L us vs).un.take (quotientDigits L us vs)) []
    (by rw [Nat.sub_add_cancel hnk.le, List.length_take, hunlen]; omega) hstart
  rw [getD_take (by omega), getD_take (by omega)] at hloop
  rw [hloop, List.append_nil]
  rw [Nat.sub_add_cancel hnk.le, List.take_take, Nat.min_self, hu, hval] at hsum
  exact ⟨hsum, hval ▸ hrem⟩

/-- The one-limb loop from the top limb (R160). -/
theorem loopResult_oneLimb {z : Normalized} {k : Nat} (hz : z = normalizeUV L us vs) (hk : k = quotientDigits L us vs)
    (hulen : us.length = L) (hvlen : vs.length = L) (hv : val vs ≠ 0) (hmn : significantLimbs vs ≤ significantLimbs us)
    (hnk : significantLimbs vs < k) (hn : significantLimbs vs = 1) :
    let x := oneLimbLoop (z.vn.getD 0 0).toNat (z.un.take k) (k - 1) ((z.un.take k).getD (k - 1) 0).toNat []
    LoopResult L us vs x.1 x.2 := by
  have hd : ((normalizeUV L us vs).vn.getD 0 0).toNat = val vs * 2 ^ (normalizeUV L us vs).s := by
    rw [← val_take_normalizeUV_vn hvlen hv, hn, val_take_succ, List.take_zero, val_nil, pow_zero, Nat.one_mul, Nat.zero_add]
  have hu := val_take_quotientDigits hulen hvlen hv hmn
  subst hz hk
  exact loopResult_oneLimbLoop hd hu (val_of_length_le_succ ((List.length_take_le _ _).trans (by omega))).symm (by omega) hv

/-- The two-limb loop from the top two limbs (R161). -/
theorem loopResult_twoLimbs {z : Normalized} {k : Nat} (hz : z = normalizeUV L us vs) (hk : k = quotientDigits L us vs)
    (hulen : us.length = L) (hvlen : vs.length = L) (hv : val vs ≠ 0) (hmn : significantLimbs vs ≤ significantLimbs us)
    (hnk : significantLimbs vs < k) (hn : significantLimbs vs = 2) :
    let x := twoLimbLoop (pair (z.vn.getD 1 0) (z.vn.getD 0 0)) (z.un.take k) (k - 2)
      (pair ((z.un.take k).getD (k - 1) 0) ((z.un.take k).getD (k - 2) 0)) []
    LoopResult L us vs x.1 x.2 := by
  have hd : pair ((normalizeUV L us vs).vn.getD 1 0) ((normalizeUV L us vs).vn.getD 0 0) =
      val vs * 2 ^ (normalizeUV L us vs).s := by
    rw [← val_take_normalizeUV_vn hvlen hv, hn, val_take_succ, val_take_succ, List.take_zero, val_nil, pair]
    ring
  have hu := val_take_quotientDigits hulen hvlen hv hmn
  subst hz hk
  obtain ⟨i, hi⟩ : ∃ i, quotientDigits L us vs = i + 2 := ⟨quotientDigits L us vs - 2, by omega⟩
  rw [hi] at hu
  simp only [hi, twoLimbLoop_eq]
  exact loopResult_oneLimbLoop hd hu (val_of_length_le_add_two (List.length_take_le _ _)).symm (by omega) hv

/-- Settles O48, path by path: the loops are the long division of the normalized operands. -/
theorem referenceDriverIsExact : Obligations.ReferenceDriverIsExact := by
  unfold Obligations.ReferenceDriverIsExact
  intro L us vs _ hulen hvlen
  have hpath := driverPath_holds L us vs
  unfold driver
  cases hp : driverPath L us vs with
  | zeroDivisor =>
    rw [hp] at hpath
    exact (if_pos hpath).symm
  | native =>
    rw [hp] at hpath
    exact (if_neg hpath).symm
  | shortDividend =>
    rw [hp] at hpath
    obtain ⟨hv, hmn⟩ := hpath
    rw [if_neg hv, ← exactResult, exactResult_of_lt hulen (val_lt_of_significantLimbs_lt hmn)]
  | unitDivisor =>
    rw [hp] at hpath
    have hv : val vs ≠ 0 := by rw [show val vs = 1 from hpath]; decide
    rw [if_neg hv, ← exactResult, exactResult_of_eq_one hulen hpath]
  | noDigits =>
    rw [hp] at hpath
    obtain ⟨hv, hmn, hk⟩ := hpath
    rw [if_neg hv, ← exactResult, exactResult_of_lt hulen (val_lt_of_quotientDigits_le hulen hvlen hv hmn hk)]
  | oneLimb =>
    rw [hp] at hpath
    obtain ⟨hv, hmn, hnk, hn⟩ := hpath
    obtain ⟨hval, hrem⟩ := loopResult_oneLimb rfl rfl hulen hvlen hv hmn hnk hn
    rw [if_neg hv]
    exact congrArg some (assembleResult_eq hval hrem)
  | twoLimbs =>
    rw [hp] at hpath
    obtain ⟨hv, hmn, hnk, hn⟩ := hpath
    obtain ⟨hval, hrem⟩ := loopResult_twoLimbs rfl rfl hulen hvlen hv hmn hnk hn
    rw [if_neg hv]
    exact congrArg some (assembleResult_eq hval hrem)
  | manyLimbs =>
    rw [hp] at hpath
    obtain ⟨hv, hmn, hnk, hn⟩ := hpath
    obtain ⟨hval, hrem⟩ := loopResult_manyLimbLoop rfl rfl rfl hulen hvlen hv hmn hnk hn
    rw [if_neg hv]
    exact congrArg some (assembleResult_eq hval hrem)

end Sys2Proof.Machine
end

section
/-! PROOFS. The transactions a host line expands to (R83, R84, R88–R94). -/

namespace Sys2Proof.Machine

theorem ArrayName.size_of_ne_un {a : ArrayName} (h : a ≠ .un) (L : Nat) : a.size L = L := by
  cases a with
  | un => exact absurd rfl h
  | u | v | q | r | vn => rfl

/-- WRW's literal fits an operand array (R89). -/
theorem lineOk_wrw_iff {L x : Nat} {a : ArrayName} : lineOk L (.wrw a x) = true ↔ (a = .u ∨ a = .v) ∧ x < B ^ L := by
  rw [lineOk, Bool.and_eq_true_iff, Bool.or_eq_true, beq_iff_eq, beq_iff_eq, decide_eq_true_iff]

/-- COPY's registers are registers of the window, and its destination is an operand register (R91). -/
theorem lineOk_copy_iff {L : Nat} {dst src : WindowReg} :
    lineOk L (.copy dst src) = true ↔ (dst.legal L = true ∧ src.legal L = true) ∧ dst.isReadWrite = true := by
  rw [lineOk, Bool.and_eq_true_iff, Bool.and_eq_true_iff]

/-- Settles O49: an expansion is its definition, and the assembler's checks are those of `lineOk`. -/
theorem lineExpansions : Obligations.LineExpansions := by
  unfold Obligations.LineExpansions
  intro L k
  refine ⟨fun r src => rfl, fun r t => rfl, fun i => rfl, fun a x => rfl, fun a x => lineOk_wrw_iff, fun a ha => ?_, rfl,
    fun dst src => rfl, fun dst src h => (lineOk_copy_iff.1 h).2, rfl, fun i => rfl⟩
  rw [expandLine, ArrayName.size_of_ne_un ha]
  rfl

/-- Settles O50: the transactions and their text, computed. -/
theorem workedEncodingExample : Obligations.WorkedEncodingExample := by
  unfold Obligations.WorkedEncodingExample
  exact ⟨fun L k => rfl, by decide, by decide, rfl, rfl⟩

end Sys2Proof.Machine
end

section
/-! PROOFS. Runs of the host's transactions, one step each (R84, R86, log 1). -/

namespace Sys2Proof.Machine

variable {s t : State} {i k n : Nat}

/-! ## Runs -/

theorem runSteps_zero (s : State) : runSteps 0 s = .next s := rfl

theorem runSteps_succ (h : step s = .next t) (k : Nat) : runSteps (k + 1) s = runSteps k t := by
  have h : Sys2Proof.core.step s = .next t := h
  simp only [runSteps, Host.Core.run, h]
  rfl

/-- The first step of a run that answers next. -/
theorem exists_step_of_runSteps_succ (h : runSteps (k + 1) s = .next t) :
    ∃ s', step s = .next s' ∧ runSteps k s' = .next t := by
  simp only [runSteps, Host.Core.run] at h
  split at h
  · exact ⟨_, ‹_›, h⟩
  · cases h
  · cases h

/-- A run in two parts. -/
theorem runSteps_add (h : runSteps i s = .next t) (k : Nat) : runSteps (i + k) s = runSteps k t := by
  induction i generalizing s with
  | zero =>
    obtain rfl : s = t := Host.Outcome.next.inj h
    rw [Nat.zero_add]
  | succ i ih =>
    obtain ⟨s', hs, h⟩ := exists_step_of_runSteps_succ h
    rw [Nat.add_right_comm, runSteps_succ hs, ih h]

theorem runSteps_one (h : step s = .next t) : runSteps 1 s = .next t := (runSteps_succ h 0).trans (runSteps_zero t)

/-- Part of a run, and the step after it. -/
theorem runSteps_step {t' : State} (h : runSteps i s = .next t) (hstep : step t = .next t') :
    runSteps (i + 1) s = .next t' := (runSteps_add h 1).trans (runSteps_one hstep)

theorem State.hostMovesNext_drop (hm : s.hostMovesNext (i + n)) (ht : t.sched = s.sched.drop i)
    (hb : t.status.busy = s.status.busy) : t.hostMovesNext n := by
  obtain ⟨hh, hbusy⟩ := hm
  refine ⟨fun x hx => hh x ?_, ?_⟩
  · rw [ht, List.take_drop] at hx
    exact List.mem_of_mem_drop hx
  · rw [hb, ht, List.length_drop]
    exact hbusy.imp_right fun h => by omega

/-! ## Transactions that take a turn each -/

/-- The host has made `i` transactions, a turn each; else nothing changed. -/
def State.passed (s : State) (i : Nat) : State :=
  { s with sched := s.sched.drop i, host := { s.host with pos := s.host.pos + i } }

@[simp] theorem State.passed_L (s : State) (i : Nat) : (s.passed i).L = s.L := rfl
@[simp] theorem State.passed_status (s : State) (i : Nat) : (s.passed i).status = s.status := rfl
@[simp] theorem State.passed_fault (s : State) (i : Nat) : (s.passed i).fault = s.fault := rfl
@[simp] theorem State.passed_pending (s : State) (i : Nat) : (s.passed i).pending = s.pending := rfl
@[simp] theorem State.passed_host (s : State) (i : Nat) :
    (s.passed i).host = { s.host with pos := s.host.pos + i } := rfl
@[simp] theorem State.passed_sched (s : State) (i : Nat) : (s.passed i).sched = s.sched.drop i := rfl

@[simp] theorem State.passed_reg (s : State) (i : Nat) (m : RegName) : (s.passed i).reg m = s.reg m := by
  rcases m with ⟨⟨⟩⟩ | ⟨⟨⟩, j⟩ <;> rfl

@[simp] theorem State.passed_array (s : State) (i : Nat) (a : ArrayName) : (s.passed i).array a = s.array a := by
  cases a <;> rfl

theorem State.passed_zero (s : State) : s.passed 0 = s := rfl

theorem State.passed_passed (s : State) (i j : Nat) : (s.passed i).passed j = s.passed (i + j) := by
  simp [State.passed, Nat.add_assoc]

theorem State.hostMovesNext_passed (hm : s.hostMovesNext (i + n)) : (s.passed i).hostMovesNext n :=
  State.hostMovesNext_drop hm rfl rfl

/-- The transaction at place `i` of those left. -/
theorem State.nextOp_passed {ops : List HostOp} (h : s.host.program.drop s.host.pos = ops) (i : Nat) :
    (s.passed i).nextOp = ops[i]? := by
  rw [← h, List.getElem?_drop]
  rfl

/-- The transactions of a line that makes one for each of `m` limbs. -/
theorem State.nextOp_passed_range {m : Nat} {f : Nat → HostOp} {rest : List HostOp}
    (h : s.host.program.drop s.host.pos = (List.range m).map f ++ rest) (hi : i < m) : (s.passed i).nextOp = some (f i) := by
  rw [State.nextOp_passed h, List.getElem?_append_left (by simpa using hi)]
  simp [hi]

/-- The observation trace replaced (R87). -/
def State.withTrace (s : State) (trace : List TraceEntry) : State := { s with host := { s.host with trace := trace } }

/-! ## One transaction -/

theorem step_of_nextOp {op : HostOp} (hm : s.hostMovesNext (n + 1)) (hf : s.fault = none) (hnext : s.nextOp = some op) :
    step s = hostOp op (s.withTurns s.sched.tail) :=
  (step_of_hostMovesNext hm hf).trans (hostStep_op (s := s.withTurns s.sched.tail) hnext)

/-- A read transaction done, with its turn taken off (R84). -/
def State.afterRead (s : State) (r : WindowReg) (mode : TraceMode) (dst : Option HostVar) (w : Word) : State :=
  { s with
    sched := s.sched.tail
    host :=
      { s.host with
        pos := s.host.pos + 1
        vars := assignVar dst w s.host.vars
        trace := recordRead mode r w s.host.trace } }

section
variable (r : WindowReg) (mode : TraceMode) (dst : Option HostVar) (w : Word)

@[simp] theorem State.afterRead_L (s : State) : (s.afterRead r mode dst w).L = s.L := rfl
@[simp] theorem State.afterRead_status (s : State) : (s.afterRead r mode dst w).status = s.status := rfl
@[simp] theorem State.afterRead_pending (s : State) : (s.afterRead r mode dst w).pending = s.pending := rfl
@[simp] theorem State.afterRead_fault (s : State) : (s.afterRead r mode dst w).fault = s.fault := rfl
@[simp] theorem State.afterRead_sched (s : State) : (s.afterRead r mode dst w).sched = s.sched.tail := rfl

@[simp] theorem State.afterRead_reg (s : State) (m : RegName) : (s.afterRead r mode dst w).reg m = s.reg m := by
  rcases m with ⟨⟨⟩⟩ | ⟨⟨⟩, j⟩ <;> rfl

end

/-- A read transaction of a line, on the host's turn. -/
theorem step_read {r : WindowReg} {mode : TraceMode} {dst : Option HostVar} {w : Word} (hm : s.hostMovesNext (n + 1))
    (hf : s.fault = none) (hnext : s.nextOp = some (.read (busAddrOf r) mode dst)) (hr : regAt s.L (addrOf r) = some r)
    (hw : memRead s (addrOf r) = .ok w) :
    step s = .next (s.afterRead r mode dst w) := by
  have hbus : busRead (s.withTurns s.sched.tail) (busAddrOf r) = .ok (r, w) := by
    rw [busRead_withTurns]
    exact busRead_word hr hw
  exact (step_of_nextOp hm hf hnext).trans (hostRead_ok hbus)

theorem State.advance_withTurns_tail (s : State) : (s.withTurns s.sched.tail).advance = s.passed 1 := by
  simp [State.advance, State.withTurns, State.passed]

theorem State.advance_setReg_withTurns (s : State) (m : RegName) (w : Word) :
    ((s.withTurns s.sched.tail).setReg m w).advance = (s.setReg m w).passed 1 := by
  rw [State.setReg_withTurns, ← State.advance_withTurns_tail, s.setReg_sched]

/-- A write transaction of a line to an operand register, on the host's turn. -/
theorem step_write {m : RegName} {src : Source} {w : Word} (hm : s.hostMovesNext (n + 1)) (hf : s.fault = none)
    (hnext : s.nextOp = some (.write (busAddrOf (.data m)) src)) (hr : regAt s.L (addrOf (.data m)) = some (.data m))
    (hop : m.isResult = false) (hb : s.status.busy = false) (hv : s.host.valueOf src = some w) :
    step s = .next ((s.setReg m w).passed 1) := by
  have hmem : memWrite (s.withTurns s.sched.tail) (addrOf (.data m)) w = .ok ((s.withTurns s.sched.tail).setReg m w) :=
    memWrite_operand hr hop hb
  have hbus : busWrite (s.withTurns s.sched.tail) (busAddrOf (.data m)) w = .ok ((s.withTurns s.sched.tail).setReg m w) :=
    hmem
  have hv : (s.withTurns s.sched.tail).host.valueOf src = some w := hv
  rw [step_of_nextOp hm hf hnext]
  simp only [hostOp, hostWrite, hv, hbus, State.advance_setReg_withTurns]

end Sys2Proof.Machine
end

section
/-! PROOFS. RDW, WRW and COPY: the transactions of the line, one after the other (R89–R91). -/

namespace Sys2Proof.Machine

variable {s : State} {a : ArrayName} {ws : List Word} {i x : Nat}

/-! ## RDW -/

theorem ArrayName.size_pos {L : Nat} (hL : 1 ≤ L) (a : ArrayName) : 1 ≤ a.size L := by
  cases a with
  | un => exact Nat.succ_pos L
  | u | v | q | r | vn => exact hL

/-- What RDW has recorded after `i` reads: nothing, or one record of the limbs read (R90). -/
def wideRecord (a : ArrayName) (ws : List Word) : Nat → List TraceEntry
  | 0 => []
  | i + 1 => [.wide a (val (ws.take (i + 1)))]

theorem addLimb_append (i : Nat) (w : Word) (trace : List TraceEntry) (a : ArrayName) (x : Nat) :
    addLimb i w (trace ++ [.wide a x]) = trace ++ [.wide a (x + w.toNat * B ^ i)] := by
  induction trace with
  | nil => rfl
  | cons e es ih =>
    rw [List.cons_append, List.cons_append, ← ih]
    cases es with
    | nil => simp [addLimb]
    | cons e' es => simp [addLimb]

/-- The next read opens the record, or adds its limb. -/
theorem recordRead_wideRecord (r : WindowReg) (trace : List TraceEntry) (i : Nat) :
    recordRead (if i = 0 then .wideFirst a else .wideNext i) r (ws.getD i 0) (trace ++ wideRecord a ws i) =
      trace ++ wideRecord a ws (i + 1) := by
  cases i with
  | zero => simp [recordRead, wideRecord, val_take_succ]
  | succ i =>
    have hval : val (ws.take (i + 1)) + (ws.getD (i + 1) 0).toNat * B ^ (i + 1) = val (ws.take (i + 2)) := by
      rw [val_take_succ ws (i + 1), Nat.mul_comm]
    simp only [recordRead, wideRecord, Nat.succ_ne_zero, if_false, addLimb_append, hval]

/-- Limb `i` of a written array. -/
theorem State.reg_limb_of_array (h : s.array a = ws.map .value) (hi : i < ws.length) :
    s.reg (.limb a i) = .value (ws.getD i 0) := by
  simp [State.reg, h, List.getD_eq_getElem?_getD, hi]

/-- The first `i` reads of an RDW line. -/
theorem runSteps_rdw {k : Nat} {rest : List HostOp} (hinv : s.Inv) (hf : s.fault = none)
    (hb : s.status.busy = false ∨ a.isResult = false) (hm : s.hostMovesNext (a.size s.L)) (ha : s.array a = ws.map .value)
    (hp : s.host.program.drop s.host.pos = expandLine s.L k (.rdw a) ++ rest) (hi : i ≤ a.size s.L) :
    runSteps i s = .next ((s.passed i).withTrace (s.host.trace ++ wideRecord a ws i)) := by
  have hlen : ws.length = a.size s.L := by rw [← hinv.size a, ha, List.length_map]
  induction i with
  | zero => simp [runSteps_zero, State.passed_zero, wideRecord, State.withTrace]
  | succ i ih =>
    obtain ⟨n, hn⟩ : ∃ n, a.size s.L = i + (n + 1) := ⟨a.size s.L - (i + 1), by omega⟩
    refine runSteps_step (ih (by omega)) ?_
    have hr : regAt s.L (addrOf (.data (.limb a i))) = some (.data (.limb a i)) := regAt_limb hinv.limbCount.2 hi
    have hbr : ¬ (s.status.busy = true ∧ (RegName.limb a i).isResult = true) := by
      rintro ⟨hbusy, hres⟩
      rcases hb with hb | hb
      · cases hb.symm.trans hbusy
      · cases hb.symm.trans hres
    have hreg : ((s.passed i).withTrace (s.host.trace ++ wideRecord a ws i)).reg (.limb a i) = .value (ws.getD i 0) :=
      (s.passed_reg i _).trans (State.reg_limb_of_array ha (by omega))
    refine (step_read (s := (s.passed i).withTrace (s.host.trace ++ wideRecord a ws i))
      (State.hostMovesNext_passed (hn ▸ hm)) hf (State.nextOp_passed_range hp hi) hr
      (memRead_value hr hbr hreg)).trans (congrArg _ ?_)
    simp only [State.afterRead, State.withTrace, recordRead_wideRecord]
    simp [State.passed, assignVar, Nat.add_assoc]

/-- Settles O54: `runSteps_rdw` at the whole line. -/
theorem rdwRecordsTheWholeValue : Obligations.RdwRecordsTheWholeValue := by
  unfold Obligations.RdwRecordsTheWholeValue
  intro s a ws k rest hinv hf hb hm ha hp
  have hlen : ws.length = a.size s.L := by rw [← hinv.size a, ha, List.length_map]
  have hpos := a.size_pos hinv.limbCount.1
  obtain ⟨n, hn⟩ : ∃ n, a.size s.L = n + 1 := ⟨a.size s.L - 1, by omega⟩
  refine ⟨_, runSteps_rdw hinv hf hb hm ha hp le_rfl, ?_, rfl, rfl, rfl, rfl, rfl⟩
  rw [hn] at hlen ⊢
  simp only [State.withTrace, wideRecord, List.take_of_length_le hlen.le]

/-! ## WRW -/

theorem limbs_succ_last (i x : Nat) : limbs (i + 1) x = limbs i x ++ [limbOf i x] := by
  simp [limbs, List.range_succ]

/-- The array after `i` writes: the literal's limbs, and above them what it held. -/
theorem set_written_append (xs : List RegVal) (hi : i < xs.length) :
    (written (limbs i x) ++ xs.drop i).set i (.value (limbOf i x)) = written (limbs (i + 1) x) ++ xs.drop (i + 1) := by
  have hlen : (written (limbs i x)).length = i := by rw [length_written, length_limbs]
  rw [List.set_append_right _ _ hlen.le, hlen, Nat.sub_self, List.drop_eq_getElem_cons hi, List.set_cons_zero,
    limbs_succ_last]
  simp [written]

theorem State.setReg_passed (s : State) (i : Nat) (m : RegName) (w : Word) :
    (s.passed i).setReg m w = (s.setReg m w).passed i := by
  rcases m with ⟨⟨⟩⟩ | ⟨⟨⟩, j⟩ <;> rfl

theorem State.setReg_setArray (s : State) (a : ArrayName) (xs : List RegVal) (i : Nat) (w : Word) :
    (s.setArray a xs).setReg (.limb a i) w = s.setArray a (xs.set i (.value w)) := by
  cases a <;> rfl

theorem State.setArray_array (s : State) (a : ArrayName) : s.setArray a (s.array a) = s := by cases a <;> rfl

/-- The first `i` writes of a WRW line. -/
theorem runSteps_wrw {k : Nat} {rest : List HostOp} (hinv : s.Inv) (hf : s.fault = none) (hb : s.status.busy = false)
    (hm : s.hostMovesNext s.L) (ha : a = .u ∨ a = .v)
    (hp : s.host.program.drop s.host.pos = expandLine s.L k (.wrw a x) ++ rest) (hi : i ≤ s.L) :
    runSteps i s = .next ((s.setArray a (written (limbs i x) ++ (s.array a).drop i)).passed i) := by
  have hsize : a.size s.L = s.L := by rcases ha with rfl | rfl <;> rfl
  have hres : a.isResult = false := by rcases ha with rfl | rfl <;> rfl
  induction i with
  | zero => simp [runSteps_zero, State.passed_zero, limbs, written, State.setArray_array]
  | succ i ih =>
    obtain ⟨n, hn⟩ : ∃ n, s.L = i + (n + 1) := ⟨s.L - (i + 1), by omega⟩
    refine runSteps_step (ih (by omega)) ?_
    generalize hxs : written (limbs i x) ++ (s.array a).drop i = xs
    have hm' : ((s.setArray a xs).passed i).hostMovesNext (n + 1) := State.hostMovesNext_drop (hn ▸ hm) (by simp) (by simp)
    have hnext := State.nextOp_passed_range (s := s.setArray a xs) (by rw [s.setArray_host]; exact hp) hi
    have hr : regAt s.L (addrOf (.data (.limb a i))) = some (.data (.limb a i)) :=
      regAt_limb hinv.limbCount.2 (hsize.symm ▸ hi)
    refine (step_write hm' (by simp [hf]) hnext (by simp [hr]) hres (by simp [hb]) rfl).trans (congrArg _ ?_)
    rw [State.setReg_passed, State.passed_passed, State.setReg_setArray, ← hxs, set_written_append _ (by rw [hinv.size, hsize]; exact hi)]

/-- Settles O55: `runSteps_wrw` at the whole line. -/
theorem wrwWritesTheWholeValue : Obligations.WrwWritesTheWholeValue := by
  unfold Obligations.WrwWritesTheWholeValue
  intro s a x k rest hinv hf hb hm ha hx hp
  have hlen : (s.array a).length = s.L := by rw [hinv.size]; rcases ha with rfl | rfl <;> rfl
  have hrun := runSteps_wrw hinv hf hb hm ha hp le_rfl
  rw [List.drop_of_length_le hlen.le, List.append_nil] at hrun
  have harray : ((s.setArray a (written (limbs s.L x))).passed s.L).array a = written (limbs s.L x) := by
    rw [State.passed_array, s.setArray_array_same]
  refine ⟨_, hrun, (State.wide_eq harray).trans (val_limbs_of_lt hx), harray, fun n hn => ?_, ?_, ?_, ?_, ?_, ?_, ?_⟩
  · refine (State.passed_reg _ _ n).trans (s.setArray_reg_other (by rw [length_written, length_limbs, hlen]) fun h => ?_)
    obtain ⟨i, -, rfl⟩ := mem_limbRegs.1 h
    exact hn i rfl
  · simp
  · simp [State.passed]
  · simp [hf]
  · simp
  · simp
  · simp [State.passed]

/-! ## COPY -/

/-- Settles O56: a read into the line's variable, and a write from it. -/
theorem copyMovesTheValue : Obligations.CopyMovesTheValue := by
  unfold Obligations.CopyMovesTheValue
  intro s dst src w k rest hinv hf hb hm hok hw hp
  obtain ⟨⟨hdst, hsrc⟩, hrw⟩ := lineOk_copy_iff.1 hok
  have hop : dst.isResult = false := by simpa [WindowReg.isReadWrite] using hrw
  have hr := regAt_addrOf hinv.limbCount.2 hdst
  have hread := step_read hm hf (State.nextOp_passed hp 0) (regAt_addrOf hinv.limbCount.2 hsrc) hw
  have hv : (s.afterRead src .single (some (.tmp k)) w).host.valueOf (.var (.tmp k)) = some w :=
    lookupVar_assignVar_same (.tmp k) w s.host.vars
  have hnext : (s.afterRead src .single (some (.tmp k)) w).nextOp = some (.write (busAddrOf (.data dst)) (.var (.tmp k))) :=
    State.nextOp_passed hp 1
  have hm' : (s.afterRead src .single (some (.tmp k)) w).hostMovesNext 1 := State.hostMovesNext_tail hm rfl rfl
  have hwrite := step_write hm' hf hnext hr hop hb hv
  have hinv' : (s.afterRead src .single (some (.tmp k)) w).Inv := hinv.step hread
  refine ⟨_, runSteps_step (runSteps_one hread) hwrite, ?_, fun n hn => ?_, ?_, ?_, ?_, ?_, ?_, ?_, ?_, ?_⟩
  · rw [State.passed_reg]
    exact hinv'.setReg_reg_same hr w
  · rw [State.passed_reg, State.setReg_reg_other _ w hn, State.afterRead_reg]
  · rw [State.passed_host, State.setReg_host]
    rfl
  · rw [State.passed_host, State.setReg_host]
    rfl
  · simp
  · simp
  · simp [hf]
  · simp
  · simp
  · rw [State.passed_host, State.setReg_host]
    exact hv

end Sys2Proof.Machine
end

section
/-! PROOFS. Interleavings: how the turns left come to a host transaction or an engine step (R20, R61, R209, log 1). -/

namespace Sys2Proof.Machine

variable {s t : State} {i : Instr}

/-! ## Turns that pass -/

/-- On an idle machine an engine's turn passes, so one turn of the host comes, at the latest where the list is spent. -/
theorem exists_host_turn (hf : s.fault = none) (hb : s.status.busy = false) (hr : .reset ∉ s.sched) :
    ∃ k rest, k + rest.length ≤ s.sched.length ∧ .reset ∉ rest ∧
      ∀ t, hostStep (s.withTurns rest) = .next t → runSteps (k + 1) s = .next t := by
  generalize hs : s.sched = sched at hr ⊢
  induction sched generalizing s with
  | nil =>
    refine ⟨0, [], le_rfl, hr, fun t h => runSteps_one ?_⟩
    rw [step_free hf hs, ← h, State.withTurns_nil hs]
    exact if_neg (by simp [hb])
  | cons x rest ih =>
    obtain ⟨hx, hrest⟩ := not_or.1 (mt List.mem_cons.2 hr)
    cases x with
    | reset => exact absurd rfl hx
    | host => exact ⟨0, rest, by simp, hrest, fun t h => runSteps_one ((step_host hf hs).trans h)⟩
    | engine =>
      have hpass : step s = .next (s.withTurns rest) := engineMovesOnlyWhenBusy s rest hf hb hs
      obtain ⟨k, rest', hk, hr', hrun⟩ := ih (s := s.withTurns rest) hf hb rfl hrest
      exact ⟨k + 1, rest', by simpa [Nat.add_right_comm] using hk, hr', fun t h => (runSteps_succ hpass _).trans (hrun t h)⟩

/-- While the machine is busy a host at WAIT reads STATUS again on each of its turns, so one engine step comes (R92). -/
theorem exists_engine_turn (hf : s.fault = none) (hb : s.status.busy = true) (hr : .reset ∉ s.sched)
    (hwait : s.nextOp = some .wait) :
    ∃ k rest, k + rest.length ≤ s.sched.length ∧ .reset ∉ rest ∧
      ∀ t, engineStep (s.withTurns rest) = .next t → runSteps (k + 1) s = .next t := by
  generalize hs : s.sched = sched at hr ⊢
  induction sched generalizing s with
  | nil =>
    exact ⟨0, [], le_rfl, hr, fun t h => runSteps_one ((step_busy hf hb (.inl hs)).trans (hs ▸ h))⟩
  | cons x rest ih =>
    obtain ⟨hx, hrest⟩ := not_or.1 (mt List.mem_cons.2 hr)
    cases x with
    | reset => exact absurd rfl hx
    | engine =>
      exact ⟨0, rest, by simp, hrest, fun t h => runSteps_one ((step_busy hf hb (.inr ⟨rest, hs⟩)).trans (hs ▸ h))⟩
    | host =>
      have hagain : step s = .next (s.withTurns rest) := (waitRepeatsWhileBusy s rest hf hs hwait).1 hb
      obtain ⟨k, rest', hk, hr', hrun⟩ := ih (s := s.withTurns rest) hf hb hwait rfl hrest
      exact ⟨k + 1, rest', by simpa [Nat.add_right_comm] using hk, hr', fun t h => (runSteps_succ hagain _).trans (hrun t h)⟩

/-! ## RUN -/

/-- A command's outcome with the same registers: the same STATUS and the same registers after it (R36, R39). -/
theorem exec_transfer {s' e : State} (hs : s.Inv) (hs' : s'.Inv) (hL : s.L = s'.L) (hreg : ∀ n, s.reg n = s'.reg n)
    (h : exec i s = .next e) : ∃ e', exec i s' = .next e' ∧ e'.status = e.status ∧ ∀ n, e'.reg n = e.reg n := by
  obtain ⟨-, hnext⟩ := commandDependsOnlyOnItsOperands s s' i hs hs' hL fun n _ => hreg n
  obtain ⟨e', he', hstatus, hresult⟩ := hnext e h
  obtain ⟨hother, -, herr, -⟩ := commandWritesExactlyItsResults s e i hs h
  obtain ⟨hother', -, herr', -⟩ := commandWritesExactlyItsResults s' e' i hs' he'
  refine ⟨e', he', hstatus, fun n => ?_⟩
  by_cases hc : e.status.cause = 0
  · by_cases hn : n ∈ resultRegs s.L i
    · exact hresult hc n hn
    · rw [hother n hn, hother' n (hL ▸ hn), hreg n]
  · rw [herr hc n, herr' (hstatus ▸ hc) n, hreg n]

theorem exec_next_busy_done {e : State} (h : exec i s = .next e) : e.status.busy = false ∧ e.status.done = true := by
  obtain hst | ⟨-, hst⟩ := exec_next_status h
  · rw [hst]
    exact ⟨rfl, rfl⟩
  · rw [hst]
    exact ⟨rfl, rfl⟩

/-- The CMD write of a RUN line on an idle machine (R24, R88). -/
theorem hostStep_startCommand (hb : s.status.busy = false)
    (hnext : s.nextOp = some (.write (busAddrOf .cmd) (.imm (encode i)))) :
    hostStep s = .next (s.start (encode i)).advance := by
  have hmem : busWrite s (busAddrOf .cmd) (encode i) = .ok (s.start (encode i)) := memWrite_cmd hb
  rw [hostStep_op hnext]
  simp only [hostOp, hostWrite, HostState.valueOf, hmem]

theorem hostStep_wait_idle (hb : s.status.busy = false) (hnext : s.nextOp = some .wait) : hostStep s = .next s.advance := by
  rw [hostStep_op hnext]
  exact hostWait_eq.trans (congrArg _ (if_neg (by simp [hb])))

/-- Settles O57: the CMD write, the engine's step and the last read of STATUS, each after the turns that pass before it. -/
theorem runLineCompletes : Obligations.RunLineCompletes := by
  unfold Obligations.RunLineCompletes
  intro s e i k rest hinv hf hb hr hexec hp
  have hstart : s.nextOp = some (.write (busAddrOf .cmd) (.imm (encode i))) := State.nextOp_passed hp 0
  have hwait : (s.passed 1).nextOp = some .wait := State.nextOp_passed hp 1
  -- the host writes CMD
  obtain ⟨k₁, rest₁, hk₁, hr₁, hrun₁⟩ := exists_host_turn hf hb hr
  have h₁ := hrun₁ _ (hostStep_startCommand (s := s.withTurns rest₁) hb hstart)
  -- the engine runs the command
  obtain ⟨k₂, rest₂, hk₂, hr₂, hrun₂⟩ := exists_engine_turn (s := ((s.withTurns rest₁).start (encode i)).advance)
    hf rfl hr₁ hwait
  generalize hs₂ : (((s.withTurns rest₁).start (encode i)).advance).withTurns rest₂ = s₂ at hrun₂
  have hinv₂ : s₂.Inv := hs₂ ▸ (((hinv.withTurns rest₁).start (encode i)).advance).withTurns rest₂
  obtain ⟨e', he', hstatus, hreg⟩ := exec_transfer hinv hinv₂ (by rw [← hs₂]; rfl) (fun n => by simp [← hs₂]) hexec
  have hengine : engineStep s₂ = .next e' := by
    rw [engineStep_command (w := encode i) (by rw [← hs₂]; rfl) (decode_eq_command_iff.2 rfl), he']
    rfl
  have h₂ := hrun₂ _ hengine
  obtain ⟨hpending, hL, hfault, hhost, hsched⟩ := exec_next_frame he'
  obtain ⟨hbusy, hdone⟩ := exec_next_busy_done he'
  -- the host reads STATUS once more
  have hf' : e'.fault = none := by rw [hfault, ← hs₂]; exact hf
  have hhost' : e'.host = { s.host with pos := s.host.pos + 1 } := by rw [hhost, ← hs₂]; rfl
  obtain ⟨k₃, rest₃, hk₃, -, hrun₃⟩ := exists_host_turn hf' hbusy (by rw [hsched, ← hs₂]; exact hr₂)
  have hwait' : (e'.withTurns rest₃).nextOp = some .wait := by
    rw [State.nextOp, State.withTurns_host, hhost']
    exact hwait
  have h₃ := hrun₃ _ (hostStep_wait_idle hbusy hwait')
  refine ⟨(k₁ + 1) + ((k₂ + 1) + (k₃ + 1)), by omega, ?_, _,
    (runSteps_add h₁ _).trans ((runSteps_add h₂ _).trans h₃), hstatus, hbusy, hdone, fun m => ?_, hpending, hf', ?_, ?_⟩
  · rw [hsched, ← hs₂] at hk₃
    change k₂ + rest₂.length ≤ rest₁.length at hk₂
    change k₃ + rest₃.length ≤ rest₂.length at hk₃
    omega
  · rw [State.advance_reg, State.withTurns_reg, hreg]
  · exact hL.trans (by rw [← hs₂]; rfl)
  · rw [State.advance_host, State.withTurns_host, hhost']

/-! ## Every started command ends -/

/-- A host turn records its faults, so it never stops the machine itself (R183). -/
theorem hostStep_ne_fault (s : State) (f : Fault) : hostStep s ≠ .fault f := by
  cases hnext : s.host.program[s.host.pos]? with
  | none => simp [hostStep, hnext]
  | some op =>
    simp only [hostStep, hnext, hostOp]
    cases op with
    | write dst src =>
      simp only [hostWrite]
      split
      · simp
      · split <;> simp
    | read src mode dst =>
      simp only [hostRead]
      split <;> simp
    | wait => simp [hostWait_eq]

theorem exists_hostStep_next (hs : s.HostInv) : ∃ t, hostStep s = .next t := by
  cases h : hostStep s with
  | next t => exact ⟨t, rfl⟩
  | fault f => exact absurd h (hostStep_ne_fault s f)
  | refused r => exact absurd h (hostStep_not_refused hs r)

/-- An engine step records its faults too. -/
theorem engineStep_ne_fault (s : State) (f : Fault) : engineStep s ≠ .fault f := by
  unfold engineStep
  split
  · simp
  · split
    · simp
    · rename_i i _
      cases he : exec i s with
      | next t => simp [recordFault]
      | fault g => simp [recordFault]
      | refused r => exact absurd he (exec_not_refused i r)

theorem exists_engineStep_next (hs : s.Inv) (hb : s.status.busy = true) : ∃ t, engineStep s = .next t := by
  cases h : engineStep s with
  | next t => exact ⟨t, rfl⟩
  | fault f => exact absurd h (engineStep_ne_fault s f)
  | refused r => exact absurd h (engineStep_not_refused hs hb r)

/-- How a started command ends: with a fault, or completed. -/
def State.ended (t : State) : Prop :=
  t.fault.isSome = true ∨ (t.status.busy = false ∧ t.status.done = true ∧ t.pending = none)

/-- One engine step ends the command. -/
theorem ended_of_engineStep (h : engineStep s = .next t) : t.ended := by
  obtain ⟨w, -, ⟨why, -, rfl⟩ | ⟨i, -, he⟩ | ⟨i, f, -, -, rfl⟩⟩ := engineStep_next h
  · exact .inr ⟨rfl, rfl, rfl⟩
  · obtain ⟨hbusy, hdone⟩ := exec_next_busy_done he
    obtain ⟨hpending, -⟩ := exec_next_frame he
    exact .inr ⟨hbusy, hdone, hpending⟩
  · exact .inl rfl

/-- While the machine is busy a host turn faults, or leaves it busy (R206). -/
theorem hostStep_of_busy (hb : s.status.busy = true) (h : hostStep s = .next t) :
    (∃ f, t = s.raise f) ∨ (t.fault = s.fault ∧ t.status = s.status) := by
  obtain ⟨hfault, hstatus, -⟩ | ⟨f, rfl⟩ | ⟨dst, src, a, w, s', -, -, -, hmem, -⟩ := hostStep_cases h
  · exact .inr ⟨hfault, hstatus⟩
  · exact .inl ⟨f, rfl⟩
  · obtain ⟨hidle, -⟩ := memWrite_ok hmem
    cases hidle.symm.trans hb

theorem hostStep_sched (h : hostStep s = .next t) : t.sched = s.sched := by
  obtain ⟨-, rfl⟩ | ⟨op, -, hop⟩ := hostStep_next h
  · rfl
  · cases op with
    | write dst src =>
      obtain ⟨w, -, ⟨f, -, rfl⟩ | ⟨a, s', -, hmem, rfl⟩⟩ := hostWrite_next hop
      · rfl
      · obtain ⟨-, ⟨-, rfl⟩ | ⟨m, -, -, rfl⟩⟩ := memWrite_ok hmem
        · rfl
        · exact s.setReg_sched m w
    | read src mode dst =>
      obtain ⟨f, -, rfl⟩ | ⟨r, w, -, rfl⟩ := hostRead_next hop
      · rfl
      · rfl
    | wait =>
      obtain rfl := Host.Outcome.next.inj (hostWait_eq.symm.trans hop)
      split <;> rfl

/-- Settles O58, by the turns left: the first engine step ends the command, and a host turn before it leaves one turn
fewer. -/
theorem startedCommandCompletes : Obligations.StartedCommandCompletes := by
  unfold Obligations.StartedCommandCompletes
  intro s hinv hhost hf hb hr
  generalize hs : s.sched = sched at hr ⊢
  induction sched generalizing s with
  | nil =>
    obtain ⟨t, ht⟩ := exists_engineStep_next (hinv.withTurns s.sched.tail) hb
    exact ⟨1, le_rfl, t, runSteps_one ((step_busy hf hb (.inl hs)).trans ht), ended_of_engineStep ht⟩
  | cons x rest ih =>
    obtain ⟨hx, hrest⟩ := not_or.1 (mt List.mem_cons.2 hr)
    cases x with
    | reset => exact absurd rfl hx
    | engine =>
      obtain ⟨t, ht⟩ := exists_engineStep_next (hinv.withTurns s.sched.tail) hb
      have hstep := (step_busy hf hb (.inr ⟨rest, hs⟩)).trans ht
      exact ⟨1, Nat.le_add_left 1 _, t, runSteps_one hstep, ended_of_engineStep ht⟩
    | host =>
      obtain ⟨t, ht⟩ := exists_hostStep_next (hhost.withTurns rest)
      have hstep : step s = .next t := (step_host hf hs).trans ht
      obtain ⟨f, rfl⟩ | ⟨hfault, hstatus⟩ := hostStep_of_busy (s := s.withTurns rest) hb ht
      · exact ⟨1, Nat.le_add_left 1 _, _, runSteps_one hstep, .inl rfl⟩
      · obtain ⟨k, hk, t', hrun, hend⟩ := ih t (hinv.step hstep) (hhost.step hstep) (hfault.trans hf)
          ((congrArg Status.busy hstatus).trans hb) (hostStep_sched ht) hrest
        exact ⟨k + 1, Nat.succ_le_succ hk, t', (runSteps_succ hstep k).trans hrun, hend⟩

end Sys2Proof.Machine
end
